-- ==== Sys2Proof/Word.lean ====
section
/-! DEFINITION. The word types of the block (00_scope.md R13). -/

namespace Sys2Proof

/-- One byte of a transaction's byte string (R14). -/
abbrev Byte := BitVec 8

/-- A `u32` register (R13). -/
abbrev Word32 := BitVec 32

/-- A `u64` register, address or increment (R13, R83). -/
abbrev Word64 := BitVec 64

/-- A byte string, `b[0]` at the lowest address (R14). -/
abbrev Bytes := List Byte

end Sys2Proof
end

