-- ==== Sys2Proof/Config.lean ====
section
/-! DEFINITION. The construction parameters of the block (00_scope.md R11), the names they use, the configuration
errors (60_exceptions.md R322), the accesses a device is offered (40_bus.md R160), and the free values: the wall clock's
progress (D49) and what an external device answers (D4), which no statement can evaluate. -/

namespace Sys2Proof

/-- The mode of a PLIC context (10_state.md R40). -/
inductive Mode where
  | u | s | h | m
  deriving DecidableEq, Repr

/-- `EDGE_WHILE_CLAIMED` (42_plic.md R235, D28): a rising edge on a claimed source is kept or lost. -/
inductive EdgePolicy where
  | latch | drop
  deriving DecidableEq, Repr

/-- The four `mip` bits of one hart that the block writes (10_state.md R31, R33). -/
structure Mip where
  msip : Bool
  mtip : Bool
  seip : Bool
  meip : Bool
  deriving DecidableEq, Repr

/-- A device that can stand on the bus (40_bus.md R160). `ram` and `external` are the devices outside the block:
parameters of the model (D4), a byte array of the given size and a device whose replies are free values. -/
inductive Device where
  | clint
  | plic
  | marker (hart : Nat)
  | filter (f : Nat)
  | pmp (p : Nat)
  | ram (size : Nat)
  | external (id size : Nat)
  deriving DecidableEq, Repr

/-- A world-guard check attached to a bus entry (40_bus.md R165, 43_worldguard.md R304). -/
inductive Guard where
  | filter (f : Nat)
  | pmp (p : Nat)
  deriving DecidableEq, Repr

/-- One entry of `DEVICE_MAP` (00_scope.md R11). -/
structure MapEntry where
  base : Word64
  device : Device
  guards : List Guard
  deriving DecidableEq, Repr

/-- `FILTER_ADDR`, `FILTER_SIZE`, `FILTER_WID_INIT`, `FILTER_MASK_INIT` of one filter (R11, R282). R11 gives the mask no
range: it is any natural, and construction truncates it. -/
structure FilterParams where
  addr : Nat
  size : Nat
  widInit : Nat
  maskInit : Nat
  deriving DecidableEq, Repr

/-- Every parameter of 00_scope.md R11 that is not derived from others. The bus bases (`CLINT_BASE`, `PLIC_BASE`,
`MARKER_BASE`, `FILTER_BASE`, `PMP_BASE`) are the bases the entries of `deviceMap` give (log entry 13). -/
structure Config where
  nHarts : Nat
  freqHz : Nat
  realTime : Bool
  anchorUs : Nat
  mtimecmpReset : List Word64
  mipReset : List Mip
  numSources : Nat
  hartConfig : List Char
  numPriorities : Nat
  edgeWhileClaimed : EdgePolicy
  plicSize : Nat
  priorityBase : Nat
  pendingBase : Nat
  enableBase : Nat
  enableStride : Nat
  contextBase : Nat
  contextStride : Nat
  widTrusted : Nat
  markerWidInit : List Nat
  filters : List FilterParams
  pmpBlocks : List Nat
  deviceMap : List MapEntry
  fetchViaBus : Bool
  deriving DecidableEq, Repr

/-- `W`, the number of 32-bit words of a PLIC bitfield (R11, 90_conflicts.md C1). -/
def Config.words (c : Config) : Nat := c.numSources / 32 + 1

/-- Why a construction is refused (60_exceptions.md R322). Each is fatal: the process ends and there is no run. -/
inductive ConfigError where
  /-- `1 ≤ N ≤ 4095` fails (R11, D7). -/
  | hartCount
  /-- `FREQ_HZ ≥ 1` fails (R11). -/
  | tickRate
  /-- a per-hart parameter does not have one value for each hart (R11, log entry 15). -/
  | perHartCount
  /-- `NUM_SOURCES = 0` (R264, D58). -/
  | noSources
  /-- `NUM_PRIORITIES < 2^32` fails (R11, D23). -/
  | priorityCount
  /-- a character of `HART_CONFIG` that is no mode (R262, R264, D30). -/
  | unknownMode
  /-- a mode twice within one hart (R262, R264). -/
  | duplicateMode
  /-- a hart index of `HART_CONFIG` not below N (R264, D30). -/
  | hartIndex
  /-- the PLIC offsets break R12 (R264). -/
  | plicLayout
  /-- `1 ≤ WID_TRUSTED ≤ 15` fails (R11, D37). -/
  | trustedWorld
  /-- `MARKER_WID_INIT[h] > WID_TRUSTED` (R276). -/
  | markerWorld
  /-- `FILTER_WID_INIT > WID_TRUSTED` (R282). -/
  | filterWorld
  /-- more PMP blocks than `WID_TRUSTED` (R303, D50). -/
  | pmpBlockCount
  /-- a bus entry or guard names a marker, filter or PMP that was not constructed (R164, log entry 15). -/
  | noSuchDevice
  /-- a device of size 0 (R164, D3). -/
  | emptyDevice
  /-- `base + size > 2^64` (R164, D3). -/
  | addressOverflow
  /-- a bus entry that overlaps another (R164, D3). -/
  | overlap
  deriving DecidableEq, Repr

/-- FREE VALUE (log entry 8): how many microseconds the wall clock went on between draw `n - 1` and draw `n`
(D49: a draw per CLINT access and per real-time tick, non-decreasing). It has no body: nothing can evaluate it. -/
opaque Config.clockGap : Nat → Nat

/-- The kind of a `LOAD` (R120). -/
inductive LoadKind where
  | load | fetch
  deriving DecidableEq, Repr

/-- A load at a device's port (R160). -/
structure LoadReq where
  hart : Nat
  kind : LoadKind
  off : Nat
  len : Nat
  deriving DecidableEq, Repr

/-- A store at a device's port (R160); its length is the number of its bytes. -/
structure StoreReq where
  hart : Nat
  off : Nat
  data : Bytes
  deriving DecidableEq, Repr

/-- An access of either direction, for the table's `LOAD|STORE` rows (R131). -/
inductive Access where
  | load (r : LoadReq)
  | store (r : StoreReq)
  deriving DecidableEq, Repr

/-- An access that external device `id` has answered. -/
structure ExtAccess where
  id : Nat
  access : Access
  deriving DecidableEq, Repr

/-- FREE VALUE (log entry 7): `ok` of external device `id`'s `load` (R160, D4), a function of the load and of what the
external devices were offered before it, the latest first. -/
opaque Config.extLoadOk (before : List ExtAccess) (id : Nat) (r : LoadReq) : Bool

/-- FREE VALUE (log entry 7): byte `k` that external device `id`'s `load` returns (R160, D4). -/
opaque Config.extLoadByte (before : List ExtAccess) (id : Nat) (r : LoadReq) (k : Nat) : Byte

/-- FREE VALUE (log entry 7): `ok` of external device `id`'s `store` (R160, D4). -/
opaque Config.extStoreOk (before : List ExtAccess) (id : Nat) (r : StoreReq) : Bool

/-- The parameters `State.reset` is constructed with: a DESIGN CHOICE (log entries 4, 5, 21), configurations K2 and
K3 of 95_test_vectors.md section 0 in one machine. No statement rests on it but those about `State.reset` itself. -/
def Config.standard : Config where
  nHarts := 2
  freqHz := 10000000
  realTime := false
  anchorUs := 1000
  mtimecmpReset := [0xFFFFFFFFFFFFFFFF#64, 0xFFFFFFFFFFFFFFFF#64]
  mipReset := [⟨false, false, false, false⟩, ⟨false, false, false, false⟩]
  numSources := 3
  hartConfig := ['M', 'S', ',', 'M', 'S']
  numPriorities := 7
  edgeWhileClaimed := .latch
  plicSize := 0x01000000
  priorityBase := 0x0
  pendingBase := 0x1000
  enableBase := 0x2000
  enableStride := 0x80
  contextBase := 0x200000
  contextStride := 0x1000
  widTrusted := 3
  markerWidInit := [3, 1]
  filters := [⟨0x1000, 0x1000, 2, 0⟩]
  pmpBlocks := [2]
  deviceMap :=
    [⟨0x02000000#64, .clint, []⟩, ⟨0x0C000000#64, .plic, []⟩,
     ⟨0x10000000#64, .marker 0, []⟩, ⟨0x10001000#64, .marker 1, []⟩,
     ⟨0x10010000#64, .filter 0, []⟩, ⟨0x10020000#64, .pmp 0, []⟩,
     ⟨0x1000#64, .ram 0x2000, [.filter 0]⟩, ⟨0x80000000#64, .ram 0x4000, [.pmp 0]⟩]
  fetchViaBus := true

end Sys2Proof
end

