-- ==== Sys2Proof/Syntax.lean ====
section
/-! DEFINITION. The operations of the block: one constructor of `Instr` per row of spec/opcode_table.json
(30_encoding.md R120, R131), and what a hart may present beside them (20_memory.md R102, R103).

A row of a device is an ACCESS AT THAT DEVICE'S PORT, as the bus forwards it (40_bus.md R160): the issuing hart, the
kind, the offset, the length or the bytes. The device reads the operation from the offset and the length (R122). -/

namespace Sys2Proof

/-- The kind a guard sees (R165, R300). -/
inductive AccessKind where
  | load | store | fetch
  deriving DecidableEq, Repr

/-- A world-guard register device (43_worldguard.md R270). -/
inductive GuardDevice where
  | marker (m : Nat)
  | filter (f : Nat)
  | pmp (p : Nat)
  deriving DecidableEq, Repr

/-- One constructor per row of spec/opcode_table.json, in the table's order. -/
inductive Instr where
  | busLoad (hart : Nat) (addr : Word64) (len : Nat) (kind : LoadKind)
  | busStore (hart : Nat) (addr : Word64) (data : Bytes)
  | busAddDevice (base : Word64) (device : Device) (guards : List Guard)
  | sysConstruct (params : Config)
  | clintLdMsip (r : LoadReq)
  | clintStMsip (r : StoreReq)
  | clintLdMtimecmp (r : LoadReq)
  | clintStMtimecmp (r : StoreReq)
  | clintLdMtime (r : LoadReq)
  | clintStMtime (r : StoreReq)
  | clintLdReserved (r : LoadReq)
  | clintStReserved (r : StoreReq)
  | clintTick (inc : Word64)
  | plicMisaligned (a : Access)
  | plicLdPriority (r : LoadReq)
  | plicStPriority (r : StoreReq)
  | plicLdPending (r : LoadReq)
  | plicStPending (r : StoreReq)
  | plicLdEnable (r : LoadReq)
  | plicStEnable (r : StoreReq)
  | plicLdThreshold (r : LoadReq)
  | plicStThreshold (r : StoreReq)
  | plicLdClaim (r : LoadReq)
  | plicStComplete (r : StoreReq)
  | plicLdReserved (r : LoadReq)
  | plicStReserved (r : StoreReq)
  | plicSetPending (irq : Nat) (level : Bool)
  | wgUntrusted (g : GuardDevice) (a : Access)
  | wgCrossing (g : GuardDevice) (a : Access)
  | wgmLdWid (m : Nat) (r : LoadReq)
  | wgmStWid (m : Nat) (r : StoreReq)
  | wgmLdLock (m : Nat) (r : LoadReq)
  | wgmStLock (m : Nat) (r : StoreReq)
  | wgfLdWid (f : Nat) (r : LoadReq)
  | wgfStWid (f : Nat) (r : StoreReq)
  | wgfGate (f : Nat) (hart : Nat) (addr : Word64) (len : Nat) (kind : AccessKind)
  | wgpLdPerm (p : Nat) (r : LoadReq)
  | wgpStPerm (p : Nat) (r : StoreReq)
  | wgpLdBase (p : Nat) (r : LoadReq)
  | wgpStBase (p : Nat) (r : StoreReq)
  | wgpLdCount (p : Nat) (r : LoadReq)
  | wgpStCount (p : Nat) (r : StoreReq)
  | wgpLdLock (p : Nat) (r : LoadReq)
  | wgpStLock (p : Nat) (r : StoreReq)
  | wgpGate (p : Nat) (hart : Nat) (addr : Word64) (len : Nat) (kind : AccessKind)
  deriving DecidableEq, Repr

/-- A hart's atomic access, which the block's interface does not have (20_memory.md R103, U13). -/
inductive AtomicKind where
  | amo | lr | sc
  deriving DecidableEq, Repr

/-- What the host may present to the block: a row of the table, or one of the hart operations of which the spec says
what they do to the block (R102: a fence does nothing; R103: an atomic access is refused). -/
inductive Request where
  | transaction (i : Instr)
  | atomic (kind : AtomicKind) (hart : Nat) (addr : Word64)
  | fence (hart : Nat)
  deriving DecidableEq, Repr

end Sys2Proof
end

