-- ==== Sys2Proof/WellFormed.lean ====
section
/-! DEFINITION. Which terms of `Instr` are records of the fields of 30_encoding.md R120: every natural that a record
carries, and the length of every list in it, fits the 64-bit word that holds it (log entry 1). Whether an access's
offset selects the row it is written as depends on the configuration and is decided by the device (R122 to R127). -/

namespace Sys2Proof

/-- A natural that a record's word can carry. -/
def fits (n : Nat) : Bool := n < 2 ^ 64

def LoadReq.wf (r : LoadReq) : Bool := fits r.hart && fits r.off && fits r.len

def StoreReq.wf (r : StoreReq) : Bool := fits r.hart && fits r.off && fits r.data.length

def Access.wf : Access → Bool
  | .load r => r.wf
  | .store r => r.wf

def Device.wf : Device → Bool
  | .clint => true
  | .plic => true
  | .marker h => fits h
  | .filter f => fits f
  | .pmp p => fits p
  | .ram size => fits size
  | .external id size => fits id && fits size

def Guard.wf : Guard → Bool
  | .filter f => fits f
  | .pmp p => fits p

def GuardDevice.wf : GuardDevice → Bool
  | .marker m => fits m
  | .filter f => fits f
  | .pmp p => fits p

def MapEntry.wf (e : MapEntry) : Bool := e.device.wf && fits e.guards.length && e.guards.all Guard.wf

def FilterParams.wf (f : FilterParams) : Bool := fits f.addr && fits f.size && fits f.widInit && fits f.maskInit

def Config.wf (c : Config) : Bool :=
  fits c.nHarts && fits c.freqHz && fits c.anchorUs && fits c.mtimecmpReset.length && fits c.mipReset.length
    && fits c.numSources && fits c.hartConfig.length && fits c.numPriorities && fits c.plicSize
    && fits c.priorityBase && fits c.pendingBase && fits c.enableBase && fits c.enableStride
    && fits c.contextBase && fits c.contextStride && fits c.widTrusted
    && fits c.markerWidInit.length && c.markerWidInit.all fits
    && fits c.filters.length && c.filters.all FilterParams.wf
    && fits c.pmpBlocks.length && c.pmpBlocks.all fits
    && fits c.deviceMap.length && c.deviceMap.all MapEntry.wf

/-- The instruction is a record of R120's fields. -/
def Instr.wf : Instr → Bool
  | .busLoad h _ len _ => fits h && fits len
  | .busStore h _ data => fits h && fits data.length
  | .busAddDevice _ d gs => d.wf && fits gs.length && gs.all Guard.wf
  | .sysConstruct c => c.wf
  | .clintLdMsip r => r.wf
  | .clintStMsip r => r.wf
  | .clintLdMtimecmp r => r.wf
  | .clintStMtimecmp r => r.wf
  | .clintLdMtime r => r.wf
  | .clintStMtime r => r.wf
  | .clintLdReserved r => r.wf
  | .clintStReserved r => r.wf
  | .clintTick _ => true
  | .plicMisaligned a => a.wf
  | .plicLdPriority r => r.wf
  | .plicStPriority r => r.wf
  | .plicLdPending r => r.wf
  | .plicStPending r => r.wf
  | .plicLdEnable r => r.wf
  | .plicStEnable r => r.wf
  | .plicLdThreshold r => r.wf
  | .plicStThreshold r => r.wf
  | .plicLdClaim r => r.wf
  | .plicStComplete r => r.wf
  | .plicLdReserved r => r.wf
  | .plicStReserved r => r.wf
  | .plicSetPending irq _ => fits irq
  | .wgUntrusted g a => g.wf && a.wf
  | .wgCrossing g a => g.wf && a.wf
  | .wgmLdWid m r => fits m && r.wf
  | .wgmStWid m r => fits m && r.wf
  | .wgmLdLock m r => fits m && r.wf
  | .wgmStLock m r => fits m && r.wf
  | .wgfLdWid f r => fits f && r.wf
  | .wgfStWid f r => fits f && r.wf
  | .wgfGate f h _ len _ => fits f && fits h && fits len
  | .wgpLdPerm p r => fits p && r.wf
  | .wgpStPerm p r => fits p && r.wf
  | .wgpLdBase p r => fits p && r.wf
  | .wgpStBase p r => fits p && r.wf
  | .wgpLdCount p r => fits p && r.wf
  | .wgpStCount p r => fits p && r.wf
  | .wgpLdLock p r => fits p && r.wf
  | .wgpStLock p r => fits p && r.wf
  | .wgpGate p h _ len _ => fits p && fits h && fits len

/-- What the host presents is a record of fields. -/
def Request.wf : Request → Bool
  | .transaction i => i.wf
  | .atomic _ h _ => fits h
  | .fence h => fits h

end Sys2Proof
end

