-- ==== Sys2Proof/Decode.lean ====
section
/-! DEFINITION. The two decodes of the block and the encoder of its records.

1. A device reads the operation of an access from its offset and length: 30_encoding.md R123 (CLINT), R124 (PLIC),
   R125 to R127 (marker, filter, PMP). Total: what selects no register is reserved.
2. A transaction record. The spec gives the fields of a transaction (R120, R132) and no bits for them, so the record's
   layout is the model's own (log entry 1): 64-bit little-endian words; word 0 the address, offset, base, `inc` or
   `irq` (the opcode table numbers its bits over the offset); word 1 the row's number in the opcode table; then the
   other fields in R120's order, one a word, a list as its length and its items. -/

namespace Sys2Proof

/-! ## Device decode -/

/-- `[off, off + len) ⊆ [lo, hi)`, in unbounded arithmetic (R123, D1). -/
def inside (off len lo hi : Nat) : Bool := decide (lo ≤ off) && decide (off + len ≤ hi)

/-- The three register families of the CLINT (R123). -/
inductive ClintFamily where
  | msip | mtimecmp | mtime
  deriving DecidableEq, Repr

/-- The declared size of the CLINT (R46). -/
def clintSize : Nat := 0xC000

/-- R123: the first family that contains the whole access; `none` is the reserved space (R189). -/
def clintFamily (n off len : Nat) : Option ClintFamily :=
  if inside off len 0x0 (4 * n) then some .msip
  else if inside off len 0x4000 (0x4000 + 8 * n) then some .mtimecmp
  else if inside off len 0xBFF8 0xC000 then some .mtime
  else none

/-- The registers of the PLIC (R124). -/
inductive PlicRegister where
  | priority (i : Nat)
  | pending (w : Nat)
  | enable (a w : Nat)
  | threshold (a : Nat)
  | claim (a : Nat)
  | reserved
  deriving DecidableEq, Repr

/-- R220: an access the PLIC looks at further has length 4 and an offset that is a multiple of 4. -/
def plicAligned (off len : Nat) : Bool := decide (len = 4) && decide (off % 4 = 0)

/-- R124, the first row that matches an aligned offset; `A` is the number of contexts. -/
def plicRegister (c : Config) (A off : Nat) : PlicRegister :=
  if c.priorityBase + 4 ≤ off ∧ (off - c.priorityBase) % 4 = 0 ∧ (off - c.priorityBase) / 4 ≤ c.numSources then
    .priority ((off - c.priorityBase) / 4)
  else if c.pendingBase ≤ off ∧ (off - c.pendingBase) % 4 = 0 ∧ (off - c.pendingBase) / 4 < c.words then
    .pending ((off - c.pendingBase) / 4)
  else if c.enableBase ≤ off ∧ (off - c.enableBase) / c.enableStride < A
      ∧ (off - c.enableBase) % c.enableStride % 4 = 0
      ∧ (off - c.enableBase) % c.enableStride / 4 < c.words then
    .enable ((off - c.enableBase) / c.enableStride) ((off - c.enableBase) % c.enableStride / 4)
  else if c.contextBase ≤ off ∧ (off - c.contextBase) / c.contextStride < A
      ∧ (off - c.contextBase) % c.contextStride = 0 then
    .threshold ((off - c.contextBase) / c.contextStride)
  else if c.contextBase ≤ off ∧ (off - c.contextBase) / c.contextStride < A
      ∧ (off - c.contextBase) % c.contextStride = 4 then
    .claim ((off - c.contextBase) / c.contextStride)
  else .reserved

/-- The registers of a marker (R125). -/
inductive MarkerRegister where
  | wid | lock
  deriving DecidableEq, Repr

/-- R125; `none` is an access that crosses offset 4 (R271). -/
def markerRegister (off len : Nat) : Option MarkerRegister :=
  if inside off len 0x0 0x4 then some .wid
  else if inside off len 0x4 0x8 then some .lock
  else none

/-- R126: the filter's one register. -/
def filterRegister (off len : Nat) : Bool := inside off len 0x0 0x4

/-- The fields of a PMP block (R127, R290). -/
inductive PmpField where
  | perm | basePage | pageCount | lock
  deriving DecidableEq, Repr

/-- R127: block `k = floor(off / 0x18)` and the field that holds the whole access; `none` crosses a field (R271). -/
def pmpField (off len : Nat) : Option (Nat × PmpField) :=
  let k := off / 0x18
  let r := off % 0x18
  if inside r len 0x00 0x04 then some (k, .perm)
  else if inside r len 0x04 0x0C then some (k, .basePage)
  else if inside r len 0x0C 0x14 then some (k, .pageCount)
  else if inside r len 0x14 0x18 then some (k, .lock)
  else none

/-! ## Words of a record -/

abbrev Words := List Word64

/-- The eight bytes of a word, the least significant first. -/
def wordBytes (w : Word64) : Bytes :=
  [BitVec.ofNat 8 w.toNat, BitVec.ofNat 8 (w.toNat / 2 ^ 8), BitVec.ofNat 8 (w.toNat / 2 ^ 16),
   BitVec.ofNat 8 (w.toNat / 2 ^ 24), BitVec.ofNat 8 (w.toNat / 2 ^ 32), BitVec.ofNat 8 (w.toNat / 2 ^ 40),
   BitVec.ofNat 8 (w.toNat / 2 ^ 48), BitVec.ofNat 8 (w.toNat / 2 ^ 56)]

def bytesOfWords : Words → Bytes
  | [] => []
  | w :: ws => wordBytes w ++ bytesOfWords ws

/-- A record is a whole number of words; `none` otherwise. -/
def wordsOfBytes : Bytes → Option Words
  | [] => some []
  | b0 :: b1 :: b2 :: b3 :: b4 :: b5 :: b6 :: b7 :: bs =>
    (wordsOfBytes bs).map
      (BitVec.ofNat 64 (b0.toNat + 2 ^ 8 * b1.toNat + 2 ^ 16 * b2.toNat + 2 ^ 24 * b3.toNat + 2 ^ 32 * b4.toNat
        + 2 ^ 40 * b5.toNat + 2 ^ 48 * b6.toNat + 2 ^ 56 * b7.toNat) :: ·)
  | _ => none

/-! ## The encoder -/

def encNat (n : Nat) : Words := [BitVec.ofNat 64 n]

def encBool (b : Bool) : Words := [if b then 1#64 else 0#64]

/-- A list: how many items, then each. -/
def encList {α : Type} (enc : α → Words) (xs : List α) : Words := encNat xs.length ++ xs.flatMap enc

def encByte (b : Byte) : Words := [b.setWidth 64]

def encData (d : Bytes) : Words := encList encByte d

def encLoadKind : LoadKind → Words
  | .load => encNat 0
  | .fetch => encNat 1

def encAccessKind : AccessKind → Words
  | .load => encNat 0
  | .fetch => encNat 1
  | .store => encNat 2

def encDevice : Device → Words
  | .clint => encNat 0
  | .plic => encNat 1
  | .marker h => encNat 2 ++ encNat h
  | .filter f => encNat 3 ++ encNat f
  | .pmp p => encNat 4 ++ encNat p
  | .ram size => encNat 5 ++ encNat size
  | .external id size => encNat 6 ++ encNat id ++ encNat size

def encGuard : Guard → Words
  | .filter f => encNat 0 ++ encNat f
  | .pmp p => encNat 1 ++ encNat p

def encGuardDevice : GuardDevice → Words
  | .marker m => encNat 2 ++ encNat m
  | .filter f => encNat 3 ++ encNat f
  | .pmp p => encNat 4 ++ encNat p

def encMapEntry (e : MapEntry) : Words := [e.base] ++ encDevice e.device ++ encList encGuard e.guards

def encFilterParams (f : FilterParams) : Words :=
  encNat f.addr ++ encNat f.size ++ encNat f.widInit ++ encNat f.maskInit

def encMip (m : Mip) : Words := encBool m.msip ++ encBool m.mtip ++ encBool m.seip ++ encBool m.meip

def encEdge : EdgePolicy → Words
  | .latch => encNat 0
  | .drop => encNat 1

def encClintParams (c : Config) : Words :=
  encNat c.nHarts ++ encNat c.freqHz ++ encBool c.realTime ++ encNat c.anchorUs
    ++ encList (fun w => [w]) c.mtimecmpReset ++ encList encMip c.mipReset

def encPlicParams (c : Config) : Words :=
  encNat c.numSources ++ encList (fun ch => encNat ch.toNat) c.hartConfig ++ encNat c.numPriorities
    ++ encEdge c.edgeWhileClaimed ++ encNat c.plicSize

def encPlicLayout (c : Config) : Words :=
  encNat c.priorityBase ++ encNat c.pendingBase ++ encNat c.enableBase ++ encNat c.enableStride
    ++ encNat c.contextBase ++ encNat c.contextStride

def encGuardParams (c : Config) : Words :=
  encNat c.widTrusted ++ encList encNat c.markerWidInit ++ encList encFilterParams c.filters
    ++ encList encNat c.pmpBlocks

/-- Every parameter, in the order of `Config`. -/
def encConfig (c : Config) : Words :=
  encClintParams c ++ encPlicParams c ++ encPlicLayout c ++ encGuardParams c ++ encList encMapEntry c.deviceMap
    ++ encBool c.fetchViaBus

def encLoadRest (r : LoadReq) : Words := encNat r.hart ++ encLoadKind r.kind ++ encNat r.len

def encStoreRest (r : StoreReq) : Words := encNat r.hart ++ encData r.data

def Access.off : Access → Nat
  | .load r => r.off
  | .store r => r.off

def encAccessRest : Access → Words
  | .load r => encNat 0 ++ encLoadRest r
  | .store r => encNat 1 ++ encStoreRest r

def encGateRest (h len : Nat) (k : AccessKind) : Words := encNat h ++ encNat len ++ encAccessKind k

/-- A record: word 0, the row's number in spec/opcode_table.json, and the other fields. -/
def record (head : Word64) (row : Nat) (rest : Words) : Words := head :: BitVec.ofNat 64 row :: rest

/-- A load at a port: `dev` is the marker, filter or PMP index, where the row has one. -/
def loadRecord (row : Nat) (dev : Words) (r : LoadReq) : Words :=
  record (BitVec.ofNat 64 r.off) row (dev ++ encLoadRest r)

def storeRecord (row : Nat) (dev : Words) (r : StoreReq) : Words :=
  record (BitVec.ofNat 64 r.off) row (dev ++ encStoreRest r)

def accessRecord (row : Nat) (dev : Words) (a : Access) : Words :=
  record (BitVec.ofNat 64 a.off) row (dev ++ encAccessRest a)

/-- The record of an instruction. -/
def encode : Instr → Words
  | .busLoad h addr len k => record addr 0 (encNat h ++ encLoadKind k ++ encNat len)
  | .busStore h addr d => record addr 1 (encNat h ++ encData d)
  | .busAddDevice base d gs => record base 2 (encDevice d ++ encList encGuard gs)
  | .sysConstruct c => record 0#64 3 (encConfig c)
  | .clintLdMsip r => loadRecord 4 [] r
  | .clintStMsip r => storeRecord 5 [] r
  | .clintLdMtimecmp r => loadRecord 6 [] r
  | .clintStMtimecmp r => storeRecord 7 [] r
  | .clintLdMtime r => loadRecord 8 [] r
  | .clintStMtime r => storeRecord 9 [] r
  | .clintLdReserved r => loadRecord 10 [] r
  | .clintStReserved r => storeRecord 11 [] r
  | .clintTick inc => record inc 12 []
  | .plicMisaligned a => accessRecord 13 [] a
  | .plicLdPriority r => loadRecord 14 [] r
  | .plicStPriority r => storeRecord 15 [] r
  | .plicLdPending r => loadRecord 16 [] r
  | .plicStPending r => storeRecord 17 [] r
  | .plicLdEnable r => loadRecord 18 [] r
  | .plicStEnable r => storeRecord 19 [] r
  | .plicLdThreshold r => loadRecord 20 [] r
  | .plicStThreshold r => storeRecord 21 [] r
  | .plicLdClaim r => loadRecord 22 [] r
  | .plicStComplete r => storeRecord 23 [] r
  | .plicLdReserved r => loadRecord 24 [] r
  | .plicStReserved r => storeRecord 25 [] r
  | .plicSetPending irq level => record (BitVec.ofNat 64 irq) 26 (encBool level)
  | .wgUntrusted g a => accessRecord 27 (encGuardDevice g) a
  | .wgCrossing g a => accessRecord 28 (encGuardDevice g) a
  | .wgmLdWid m r => loadRecord 29 (encNat m) r
  | .wgmStWid m r => storeRecord 30 (encNat m) r
  | .wgmLdLock m r => loadRecord 31 (encNat m) r
  | .wgmStLock m r => storeRecord 32 (encNat m) r
  | .wgfLdWid f r => loadRecord 33 (encNat f) r
  | .wgfStWid f r => storeRecord 34 (encNat f) r
  | .wgfGate f h addr len k => record addr 35 (encNat f ++ encGateRest h len k)
  | .wgpLdPerm p r => loadRecord 36 (encNat p) r
  | .wgpStPerm p r => storeRecord 37 (encNat p) r
  | .wgpLdBase p r => loadRecord 38 (encNat p) r
  | .wgpStBase p r => storeRecord 39 (encNat p) r
  | .wgpLdCount p r => loadRecord 40 (encNat p) r
  | .wgpStCount p r => storeRecord 41 (encNat p) r
  | .wgpLdLock p r => loadRecord 42 (encNat p) r
  | .wgpStLock p r => storeRecord 43 (encNat p) r
  | .wgpGate p h addr len k => record addr 44 (encNat p ++ encGateRest h len k)

def encAtomicKind : AtomicKind → Words
  | .amo => encNat 0
  | .lr => encNat 1
  | .sc => encNat 2

/-- The record of anything the host may present; 45 and 46 stand after the table's rows. -/
def encodeRequest : Request → Words
  | .transaction i => encode i
  | .atomic k h addr => record addr 45 (encAtomicKind k ++ encNat h)
  | .fence h => record 0#64 46 (encNat h)

/-! ## The decoder of records -/

/-- A reader of fields: what it read and the words that are left, or `none`. -/
abbrev Parse (α : Type) := Words → Option (α × Words)

def parseNat : Parse Nat
  | [] => none
  | w :: ws => some (w.toNat, ws)

def parseWord : Parse Word64
  | [] => none
  | w :: ws => some (w, ws)

/-- A field of `n` bits in a word of its own; larger words are no such field. -/
def parseBits (n : Nat) : Parse (BitVec n)
  | [] => none
  | w :: ws => if w.toNat < 2 ^ n then some (w.setWidth n, ws) else none

def parseBool : Parse Bool
  | [] => none
  | w :: ws => if w = 0#64 then some (false, ws) else if w = 1#64 then some (true, ws) else none

/-- A `Char` by its code point. -/
def parseChar : Parse Char
  | [] => none
  | w :: ws => if w.toNat.isValidChar then some (Char.ofNat w.toNat, ws) else none

/-- `n` items one after another. -/
def parseMany {α : Type} (p : Parse α) : Nat → Parse (List α)
  | 0, ws => some ([], ws)
  | n + 1, ws => do
    let (x, ws) ← p ws
    let (xs, ws) ← parseMany p n ws
    some (x :: xs, ws)

def parseList {α : Type} (p : Parse α) : Parse (List α) := fun ws => do
  let (n, ws) ← parseNat ws
  parseMany p n ws

def parseData : Parse Bytes := parseList (parseBits 8)

def parseLoadKind : Parse LoadKind := fun ws => do
  let (t, ws) ← parseNat ws
  match t with
  | 0 => some (.load, ws)
  | 1 => some (.fetch, ws)
  | _ => none

def parseAccessKind : Parse AccessKind := fun ws => do
  let (t, ws) ← parseNat ws
  match t with
  | 0 => some (.load, ws)
  | 1 => some (.fetch, ws)
  | 2 => some (.store, ws)
  | _ => none

def parseDevice : Parse Device := fun ws => do
  let (t, ws) ← parseNat ws
  match t with
  | 0 => some (.clint, ws)
  | 1 => some (.plic, ws)
  | 2 => let (h, ws) ← parseNat ws; some (.marker h, ws)
  | 3 => let (f, ws) ← parseNat ws; some (.filter f, ws)
  | 4 => let (p, ws) ← parseNat ws; some (.pmp p, ws)
  | 5 => let (size, ws) ← parseNat ws; some (.ram size, ws)
  | 6 => let (id, ws) ← parseNat ws; let (size, ws) ← parseNat ws; some (.external id size, ws)
  | _ => none

def parseGuard : Parse Guard := fun ws => do
  let (t, ws) ← parseNat ws
  match t with
  | 0 => let (f, ws) ← parseNat ws; some (.filter f, ws)
  | 1 => let (p, ws) ← parseNat ws; some (.pmp p, ws)
  | _ => none

def parseGuardDevice : Parse GuardDevice := fun ws => do
  let (t, ws) ← parseNat ws
  match t with
  | 2 => let (m, ws) ← parseNat ws; some (.marker m, ws)
  | 3 => let (f, ws) ← parseNat ws; some (.filter f, ws)
  | 4 => let (p, ws) ← parseNat ws; some (.pmp p, ws)
  | _ => none

def parseMapEntry : Parse MapEntry := fun ws => do
  let (base, ws) ← parseWord ws
  let (device, ws) ← parseDevice ws
  let (guards, ws) ← parseList parseGuard ws
  some (⟨base, device, guards⟩, ws)

def parseFilterParams : Parse FilterParams := fun ws => do
  let (addr, ws) ← parseNat ws
  let (size, ws) ← parseNat ws
  let (widInit, ws) ← parseNat ws
  let (maskInit, ws) ← parseNat ws
  some (⟨addr, size, widInit, maskInit⟩, ws)

def parseMip : Parse Mip := fun ws => do
  let (msip, ws) ← parseBool ws
  let (mtip, ws) ← parseBool ws
  let (seip, ws) ← parseBool ws
  let (meip, ws) ← parseBool ws
  some (⟨msip, mtip, seip, meip⟩, ws)

def parseEdge : Parse EdgePolicy := fun ws => do
  let (t, ws) ← parseNat ws
  match t with
  | 0 => some (.latch, ws)
  | 1 => some (.drop, ws)
  | _ => none

def parseClintParams : Parse (Nat × Nat × Bool × Nat × List Word64 × List Mip) := fun ws => do
  let (nHarts, ws) ← parseNat ws
  let (freqHz, ws) ← parseNat ws
  let (realTime, ws) ← parseBool ws
  let (anchorUs, ws) ← parseNat ws
  let (mtimecmpReset, ws) ← parseList parseWord ws
  let (mipReset, ws) ← parseList parseMip ws
  some ((nHarts, freqHz, realTime, anchorUs, mtimecmpReset, mipReset), ws)

def parsePlicParams : Parse (Nat × List Char × Nat × EdgePolicy × Nat) := fun ws => do
  let (numSources, ws) ← parseNat ws
  let (hartConfig, ws) ← parseList parseChar ws
  let (numPriorities, ws) ← parseNat ws
  let (edgeWhileClaimed, ws) ← parseEdge ws
  let (plicSize, ws) ← parseNat ws
  some ((numSources, hartConfig, numPriorities, edgeWhileClaimed, plicSize), ws)

def parsePlicLayout : Parse (Nat × Nat × Nat × Nat × Nat × Nat) := fun ws => do
  let (priorityBase, ws) ← parseNat ws
  let (pendingBase, ws) ← parseNat ws
  let (enableBase, ws) ← parseNat ws
  let (enableStride, ws) ← parseNat ws
  let (contextBase, ws) ← parseNat ws
  let (contextStride, ws) ← parseNat ws
  some ((priorityBase, pendingBase, enableBase, enableStride, contextBase, contextStride), ws)

def parseGuardParams : Parse (Nat × List Nat × List FilterParams × List Nat) := fun ws => do
  let (widTrusted, ws) ← parseNat ws
  let (markerWidInit, ws) ← parseList parseNat ws
  let (filters, ws) ← parseList parseFilterParams ws
  let (pmpBlocks, ws) ← parseList parseNat ws
  some ((widTrusted, markerWidInit, filters, pmpBlocks), ws)

def parseConfig : Parse Config := fun ws => do
  let ((nHarts, freqHz, realTime, anchorUs, mtimecmpReset, mipReset), ws) ← parseClintParams ws
  let ((numSources, hartConfig, numPriorities, edgeWhileClaimed, plicSize), ws) ← parsePlicParams ws
  let ((priorityBase, pendingBase, enableBase, enableStride, contextBase, contextStride), ws) ← parsePlicLayout ws
  let ((widTrusted, markerWidInit, filters, pmpBlocks), ws) ← parseGuardParams ws
  let (deviceMap, ws) ← parseList parseMapEntry ws
  let (fetchViaBus, ws) ← parseBool ws
  some ({ nHarts, freqHz, realTime, anchorUs, mtimecmpReset, mipReset, numSources, hartConfig, numPriorities,
          edgeWhileClaimed, plicSize, priorityBase, pendingBase, enableBase, enableStride, contextBase,
          contextStride, widTrusted, markerWidInit, filters, pmpBlocks, deviceMap, fetchViaBus }, ws)

def parseLoadReq (off : Nat) : Parse LoadReq := fun ws => do
  let (hart, ws) ← parseNat ws
  let (kind, ws) ← parseLoadKind ws
  let (len, ws) ← parseNat ws
  some (⟨hart, kind, off, len⟩, ws)

def parseStoreReq (off : Nat) : Parse StoreReq := fun ws => do
  let (hart, ws) ← parseNat ws
  let (data, ws) ← parseData ws
  some (⟨hart, off, data⟩, ws)

def parseAccess (off : Nat) : Parse Access := fun ws => do
  let (t, ws) ← parseNat ws
  match t with
  | 0 => let (r, ws) ← parseLoadReq off ws; some (.load r, ws)
  | 1 => let (r, ws) ← parseStoreReq off ws; some (.store r, ws)
  | _ => none

/-- A row whose only fields are those of a load at a port. -/
def parseLoadRow (mk : LoadReq → Instr) (off : Nat) : Parse Instr := fun ws => do
  let (r, ws) ← parseLoadReq off ws
  some (mk r, ws)

def parseStoreRow (mk : StoreReq → Instr) (off : Nat) : Parse Instr := fun ws => do
  let (r, ws) ← parseStoreReq off ws
  some (mk r, ws)

/-- A row that also names its marker, filter or PMP. -/
def parseIndexedLoadRow (mk : Nat → LoadReq → Instr) (off : Nat) : Parse Instr := fun ws => do
  let (d, ws) ← parseNat ws
  let (r, ws) ← parseLoadReq off ws
  some (mk d r, ws)

def parseIndexedStoreRow (mk : Nat → StoreReq → Instr) (off : Nat) : Parse Instr := fun ws => do
  let (d, ws) ← parseNat ws
  let (r, ws) ← parseStoreReq off ws
  some (mk d r, ws)

def parseGuardRow (mk : GuardDevice → Access → Instr) (off : Nat) : Parse Instr := fun ws => do
  let (g, ws) ← parseGuardDevice ws
  let (a, ws) ← parseAccess off ws
  some (mk g a, ws)

def parseGateRow (mk : Nat → Nat → Word64 → Nat → AccessKind → Instr) (addr : Word64) : Parse Instr := fun ws => do
  let (g, ws) ← parseNat ws
  let (h, ws) ← parseNat ws
  let (len, ws) ← parseNat ws
  let (k, ws) ← parseAccessKind ws
  some (mk g h addr len k, ws)

/-- The fields after word 1, by the row's number; a number that is no row is refused. -/
def parseRow (row : Nat) (head : Word64) : Parse Instr := fun ws =>
  match row with
  | 0 => do
    let (h, ws) ← parseNat ws
    let (k, ws) ← parseLoadKind ws
    let (len, ws) ← parseNat ws
    some (.busLoad h head len k, ws)
  | 1 => do
    let (h, ws) ← parseNat ws
    let (d, ws) ← parseData ws
    some (.busStore h head d, ws)
  | 2 => do
    let (d, ws) ← parseDevice ws
    let (gs, ws) ← parseList parseGuard ws
    some (.busAddDevice head d gs, ws)
  | 3 => if head = 0#64 then (do let (c, ws) ← parseConfig ws; some (.sysConstruct c, ws)) else none
  | 4 => parseLoadRow .clintLdMsip head.toNat ws
  | 5 => parseStoreRow .clintStMsip head.toNat ws
  | 6 => parseLoadRow .clintLdMtimecmp head.toNat ws
  | 7 => parseStoreRow .clintStMtimecmp head.toNat ws
  | 8 => parseLoadRow .clintLdMtime head.toNat ws
  | 9 => parseStoreRow .clintStMtime head.toNat ws
  | 10 => parseLoadRow .clintLdReserved head.toNat ws
  | 11 => parseStoreRow .clintStReserved head.toNat ws
  | 12 => some (.clintTick head, ws)
  | 13 => do let (a, ws) ← parseAccess head.toNat ws; some (.plicMisaligned a, ws)
  | 14 => parseLoadRow .plicLdPriority head.toNat ws
  | 15 => parseStoreRow .plicStPriority head.toNat ws
  | 16 => parseLoadRow .plicLdPending head.toNat ws
  | 17 => parseStoreRow .plicStPending head.toNat ws
  | 18 => parseLoadRow .plicLdEnable head.toNat ws
  | 19 => parseStoreRow .plicStEnable head.toNat ws
  | 20 => parseLoadRow .plicLdThreshold head.toNat ws
  | 21 => parseStoreRow .plicStThreshold head.toNat ws
  | 22 => parseLoadRow .plicLdClaim head.toNat ws
  | 23 => parseStoreRow .plicStComplete head.toNat ws
  | 24 => parseLoadRow .plicLdReserved head.toNat ws
  | 25 => parseStoreRow .plicStReserved head.toNat ws
  | 26 => do let (level, ws) ← parseBool ws; some (.plicSetPending head.toNat level, ws)
  | 27 => parseGuardRow .wgUntrusted head.toNat ws
  | 28 => parseGuardRow .wgCrossing head.toNat ws
  | 29 => parseIndexedLoadRow .wgmLdWid head.toNat ws
  | 30 => parseIndexedStoreRow .wgmStWid head.toNat ws
  | 31 => parseIndexedLoadRow .wgmLdLock head.toNat ws
  | 32 => parseIndexedStoreRow .wgmStLock head.toNat ws
  | 33 => parseIndexedLoadRow .wgfLdWid head.toNat ws
  | 34 => parseIndexedStoreRow .wgfStWid head.toNat ws
  | 35 => parseGateRow .wgfGate head ws
  | 36 => parseIndexedLoadRow .wgpLdPerm head.toNat ws
  | 37 => parseIndexedStoreRow .wgpStPerm head.toNat ws
  | 38 => parseIndexedLoadRow .wgpLdBase head.toNat ws
  | 39 => parseIndexedStoreRow .wgpStBase head.toNat ws
  | 40 => parseIndexedLoadRow .wgpLdCount head.toNat ws
  | 41 => parseIndexedStoreRow .wgpStCount head.toNat ws
  | 42 => parseIndexedLoadRow .wgpLdLock head.toNat ws
  | 43 => parseIndexedStoreRow .wgpStLock head.toNat ws
  | 44 => parseGateRow .wgpGate head ws
  | _ => none

/-- An instruction from the words of a record, with the words that follow it. -/
def decode : Parse Instr
  | head :: row :: ws => parseRow row.toNat head ws
  | _ => none

def parseAtomicKind : Parse AtomicKind := fun ws => do
  let (t, ws) ← parseNat ws
  match t with
  | 0 => some (.amo, ws)
  | 1 => some (.lr, ws)
  | 2 => some (.sc, ws)
  | _ => none

/-- Anything the host may present, from the words of a record. -/
def decodeRequest : Parse Request
  | head :: row :: ws =>
    match row.toNat with
    | 45 => do
      let (k, ws) ← parseAtomicKind ws
      let (h, ws) ← parseNat ws
      some (.atomic k h head, ws)
    | 46 => if head = 0#64 then (do let (h, ws) ← parseNat ws; some (.fence h, ws)) else none
    | n => (parseRow n head ws).map fun p => (.transaction p.1, p.2)
  | _ => none

/-- A record as it lies in the queue: whole words, one request, and nothing after it but words of zeros. -/
def decodeRecord (bs : Bytes) : Option Request :=
  match wordsOfBytes bs with
  | none => none
  | some ws =>
    match decodeRequest ws with
    | none => none
    | some (r, rest) => if rest.all (· == 0#64) then some r else none

/-- The record's bytes, as they stand in the queue. -/
def encodeRecord (r : Request) : Bytes := bytesOfWords (encodeRequest r)

/-- `n` words of a number, the least significant first. -/
def wordsOfNat : Nat → Nat → Words
  | 0, _ => []
  | n + 1, w => BitVec.ofNat 64 w :: wordsOfNat n (w / 2 ^ 64)

/-- `w` as a record: bit 0 the least significant bit of word 0, every bit above `nbits` zero. -/
def tableRecord (nbits w : Nat) : Bytes := bytesOfWords (wordsOfNat (64 + nbits / 64) (w % 2 ^ nbits))

/-- The instruction the decoder reads from an instruction whose bits are `w` (the host's question). -/
def decodeTableWord (nbits w : Nat) : Option Instr :=
  match decodeRecord (tableRecord nbits w) with
  | some (.transaction i) => some i
  | _ => none

end Sys2Proof
end

