-- ==== Sys2Proof/Machine/State.lean ====
section
/-! DEFINITION. The state of the block (10_state.md R34), as plain data, the reasons a step can stop, and the state
after reset, which is construction (10_state.md R49, 70_reset_and_hazards.md R360). -/

namespace Sys2Proof.Machine

/-- Where the block is in its life (10_state.md R51, 40_bus.md R164): not constructed; constructed, with devices still
being added; serving transactions, the configuration fixed (log entry 14). -/
inductive Phase where
  | unbuilt | configuring | running
  deriving DecidableEq, Repr

/-- A PLIC context (10_state.md R40). -/
structure Context where
  addrid : Nat
  hartid : Nat
  mode : Mode
  deriving DecidableEq, Repr

/-- The PLIC's arrays (10_state.md R39). `priority` and `level` hold source `i` at position `i - 1`; `pending` and
`claimed` hold id `i` as bit `i % 32` of word `i / 32`; `enable` holds context `a`'s word `w` at `a * W + w`. -/
structure Plic where
  priority : List (BitVec 3)
  pending : List Word32
  claimed : List Word32
  enable : List Word32
  threshold : List Word32
  level : List Bool
  deriving DecidableEq, Repr

/-- A marker (10_state.md R43). -/
structure Marker where
  wid : Word32
  lock : Word32
  deriving DecidableEq, Repr

/-- A block of a world-guard PMP (10_state.md R45). -/
structure PmpBlock where
  perm : Word32
  basePage : Word64
  pageCount : Word64
  lock : Word32
  deriving DecidableEq, Repr

/-- An entry of the bus map (10_state.md R35). -/
structure BusEntry where
  base : Nat
  size : Nat
  device : Device
  guards : List Guard
  deriving DecidableEq, Repr

/-- The exception that a refused access becomes on the issuing hart (60_exceptions.md R320). -/
inductive FaultKind where
  | load | store | fetch
  deriving DecidableEq, Repr

/-- The fault signal of a refused access: the hart, the exception, and the transaction's start address (R320, D43). -/
structure AccessFault where
  hart : Nat
  kind : FaultKind
  mtval : Word64
  deriving DecidableEq, Repr

/-- What the last transaction returned (R30, R120): nothing, the bytes of a load, the `true` of a store, a gate's
decision, or `ok = false` with the fault signal it becomes. -/
inductive Output where
  | none
  | loaded (data : Bytes)
  | stored
  | gate (allowed : Bool)
  | accessFault (f : AccessFault)
  deriving DecidableEq, Repr

/-- Bytes at absolute addresses, in canonical form (`Memory.wf`). -/
abbrev Memory := List Host.Cell

structure State where
  /-- the model's own field: R51, R164, R360 (log entry 14) -/
  phase : Phase
  /-- the construction parameters, fixed (R11, R51) -/
  cfg : Config
  /-- the bus map, by rising base (R35) -/
  bus : List BusEntry
  /-- R37 -/
  mtime : Word64
  /-- R37, one per hart -/
  mtimecmp : List Word64
  /-- the four `mip` bits of each hart (R31, R33) -/
  mip : List Mip
  /-- R39, R41 -/
  plic : Plic
  /-- `addr_config` (R40) -/
  contexts : List Context
  /-- R43, one per hart -/
  markers : List Marker
  /-- `wid_mask` of each filter (R44) -/
  filterMask : List Word32
  /-- the blocks of each PMP (R45) -/
  pmps : List (List PmpBlock)
  /-- the bytes of the RAM devices (R10, D4; log entry 6) -/
  mem : Memory
  /-- the model's own field: the wall clock's latest reading, in microseconds (D49; log entry 8) -/
  clockUs : Nat
  /-- the model's own field: how many readings of the wall clock were drawn (log entry 8) -/
  clockDraws : Nat
  /-- the model's own field: the accesses that external devices were offered, the latest first (log entry 7) -/
  extLog : List ExtAccess
  /-- the model's own field: the records the host has still to present, in its order (R100; log entry 2) -/
  queue : List Bytes
  /-- the model's own field: what the last transaction returned (R30, R120; log entry 9) -/
  out : Output
  deriving DecidableEq, Repr

/-- A step stops with a fault. -/
inductive Fault where
  /-- Raised by `SYS.CONSTRUCT` and `BUS.ADD_DEVICE` on a configuration error: the spec ends the process (R322).
  SAFE: the machine stops where the spec's machine stops. -/
  | configuration (e : ConfigError)
  deriving DecidableEq, Repr

/-- A step is refused. -/
inductive Refusal where
  /-- Answered by an arm of `exec` that has no meaning yet. SAFE: nothing is claimed of the instruction. -/
  | notModelled (mnemonic : String)
  /-- Answered by the fetch: the bytes at the head of the queue are no record of R120's fields. SAFE. -/
  | malformedRecord
  /-- Answered by the fetch for every request but `SYS.CONSTRUCT`, and by `BUS.ADD_DEVICE`, while there is no block
  (R360: construction comes first). SAFE: the spec gives no effect before there is an initial state. -/
  | notConstructed
  /-- Answered by `SYS.CONSTRUCT` when the block exists (R360: there is no later reset). SAFE. -/
  | alreadyConstructed
  /-- Answered by `BUS.ADD_DEVICE` once transactions run (R164, R51: not available after construction). SAFE. -/
  | constructionOver
  deriving DecidableEq, Repr

/-- What `step` finds at the head of the queue: no record; bytes that are no record; a request that comes before
construction; or a request, and the state with its record taken. -/
inductive Fetch where
  | idle
  | malformed
  | notConstructed
  | run (i : Instr) (s : State)
  | atomic (kind : AtomicKind) (hart : Nat) (addr : Word64) (s : State)
  | fence (s : State)
  deriving DecidableEq, Repr

/-- What a meaning answers. -/
abbrev Out := Host.Outcome State Fault Refusal

/-- The state after reset, that is after construction (R49, R360) with the parameters `Config.standard` (log entries
4, 5, 6, 14, 21, 23). Nothing is in the queue: no transaction has been presented (log entry 3). -/
def State.reset : State where
  phase := .configuring
  cfg := Config.standard
  bus :=
    [⟨0x1000, 0x2000, .ram 0x2000, [.filter 0]⟩, ⟨0x02000000, 0xC000, .clint, []⟩,
     ⟨0x0C000000, 0x01000000, .plic, []⟩, ⟨0x10000000, 8, .marker 0, []⟩, ⟨0x10001000, 8, .marker 1, []⟩,
     ⟨0x10010000, 4, .filter 0, []⟩, ⟨0x10020000, 0x30, .pmp 0, []⟩, ⟨0x80000000, 0x4000, .ram 0x4000, [.pmp 0]⟩]
  mtime := 0#64
  mtimecmp := [0xFFFFFFFFFFFFFFFF#64, 0xFFFFFFFFFFFFFFFF#64]
  mip := [⟨false, false, false, false⟩, ⟨false, false, false, false⟩]
  plic :=
    { priority := [0#3, 0#3, 0#3], pending := [0#32], claimed := [0#32], enable := [0#32, 0#32, 0#32, 0#32],
      threshold := [0#32, 0#32, 0#32, 0#32], level := [false, false, false] }
  contexts := [⟨0, 0, .m⟩, ⟨1, 0, .s⟩, ⟨2, 1, .m⟩, ⟨3, 1, .s⟩]
  markers := [⟨3#32, 0#32⟩, ⟨1#32, 0#32⟩]
  filterMask := [4#32]
  pmps := [[⟨0#32, 0#64, 0#64, 0#32⟩, ⟨0#32, 0#64, 0#64, 0#32⟩]]
  mem := []
  clockUs := 1000
  clockDraws := 0
  extLog := []
  queue := []
  out := .none

/-- The machine before construction: there is no block yet (R360). It is where `SYS.CONSTRUCT` runs. -/
def State.unbuilt : State where
  phase := .unbuilt
  cfg := Config.standard
  bus := []
  mtime := 0#64
  mtimecmp := []
  mip := []
  plic := { priority := [], pending := [], claimed := [], enable := [], threshold := [], level := [] }
  contexts := []
  markers := []
  filterMask := []
  pmps := []
  mem := []
  clockUs := 0
  clockDraws := 0
  extLog := []
  queue := []
  out := .none

end Sys2Proof.Machine
end

