-- ==== Sys2Proof/Machine/Operands.lean ====
section
/-! DEFINITION. The operand forms: byte strings and their values (00_scope.md R14), byte windows over a register or a
register family (R15, R82, R271), and bits of the PLIC's bitfields (10_state.md R39). -/

namespace Sys2Proof.Machine

/-- `le_bytes(v, n)` (R14). -/
def leBytes : Nat → Nat → Bytes
  | 0, _ => []
  | n + 1, v => BitVec.ofNat 8 v :: leBytes n (v / 256)

/-- `le_value(b)` (R14). -/
def leValue : Bytes → Nat
  | [] => 0
  | b :: bs => b.toNat + 256 * leValue bs

/-- `window(F, off, len)` (R15). -/
def window (F : Bytes) (off len : Nat) : Bytes := (F.drop off).take len

/-- `patch(F, off, b)` (R15). -/
def patch (F : Bytes) (off : Nat) (b : Bytes) : Bytes := F.take off ++ b ++ F.drop (off + b.length)

/-- What a load of `len` bytes at byte `k` of a `w`-bit register returns (R80, R271). -/
def readWindow {w : Nat} (v : BitVec w) (k len : Nat) : Bytes := window (leBytes (w / 8) v.toNat) k len

/-- The value of a `w`-bit register after a store of bytes at its byte `k` (R80, R271). -/
def writeWindow {w : Nat} (v : BitVec w) (k : Nat) (b : Bytes) : BitVec w :=
  BitVec.ofNat w (leValue (patch (leBytes (w / 8) v.toNat) k b))

/-- The value of a 4-byte store (R121, R220). -/
def storeValue (b : Bytes) : Word32 := BitVec.ofNat 32 (leValue b)

/-- Bit `i` of a bitfield: bit `i % 32` of word `i / 32` (R39). -/
def bitAt (ws : List Word32) (i : Nat) : Bool := (ws.getD (i / 32) 0#32).getLsbD (i % 32)

/-- The bitfield with bit `i` set. -/
def setBit (ws : List Word32) (i : Nat) : List Word32 :=
  ws.set (i / 32) (ws.getD (i / 32) 0#32 ||| (1#32 <<< (i % 32)))

/-- The bitfield with bit `i` cleared. -/
def clearBit (ws : List Word32) (i : Nat) : List Word32 :=
  ws.set (i / 32) (ws.getD (i / 32) 0#32 &&& ~~~(1#32 <<< (i % 32)))

/-- The `mip` register of a hart as the hart sees the block's bits: MSIP bit 3, MTIP bit 7, SEIP bit 9, MEIP bit 11
(10_state.md R31; 9 and 11 are the spec's general knowledge, log entry 10). DESIGN CHOICE: the width of 64 bits, for the
spec gives `mip` none (91_not_in_source.md N1; log entry 25); no meaning uses the word. -/
def mipWord (m : Mip) : Word64 :=
  (if m.msip then 1#64 <<< 3 else 0#64) ||| (if m.mtip then 1#64 <<< 7 else 0#64)
    ||| (if m.seip then 1#64 <<< 9 else 0#64) ||| (if m.meip then 1#64 <<< 11 else 0#64)

/-- The kind a guard sees of a load (R165). -/
def accessKind : LoadKind → AccessKind
  | .load => .load
  | .fetch => .fetch

/-- The exception a refused load becomes (R320). -/
def faultKind : LoadKind → FaultKind
  | .load => .load
  | .fetch => .fetch

/-- The cause code the hart reports (R320; the spec's general knowledge G2, log entry 10). -/
def FaultKind.code : FaultKind → Nat
  | .fetch => 1
  | .load => 5
  | .store => 7

end Sys2Proof.Machine
end

