-- ==== Sys2Proof/Machine/Ops.lean ====
section
/-! DEFINITION. The named operations: the bytes of memory; the readers and writers of every register; the fault signal
a refused access becomes (60_exceptions.md R320), which every refusal goes through; how a load or a store of the bus,
or an access at a device's port, ends; and the fetch of the next record. -/

namespace Sys2Proof.Machine

/-! ## Memory: the bytes of RAM devices (log entry 6) -/

/-- What an address that nothing has written reads as (log entry 6). -/
def unlistedByte : Byte := 0#8

/-- The byte at address `a`. -/
def Memory.read : Memory → Nat → Byte
  | [], _ => unlistedByte
  | (k, b) :: m, a => if k = a then b else Memory.read m a

/-- `m` with byte `b` at address `a`, in canonical form. -/
def Memory.write : Memory → Nat → Byte → Memory
  | [], a, b => if b = unlistedByte then [] else [(a, b)]
  | (k, c) :: m, a, b =>
    if a < k then (if b = unlistedByte then (k, c) :: m else (a, b) :: (k, c) :: m)
    else if a = k then (if b = unlistedByte then m else (a, b) :: m)
    else (k, c) :: Memory.write m a b

/-- The canonical form: rising addresses, no entry equal to what an unlisted address reads as. -/
abbrev Memory.wf (m : Memory) : Prop :=
  m.Pairwise (fun x y => x.1 < y.1) ∧ ∀ c ∈ m, c.2 ≠ unlistedByte

def Memory.readBytes (m : Memory) (a len : Nat) : Bytes := (List.range len).map fun k => m.read (a + k)

def Memory.writeBytes (m : Memory) (a : Nat) : Bytes → Memory
  | [] => m
  | b :: bs => Memory.writeBytes (m.write a b) (a + 1) bs

/-! ## Updates of the state, one field each -/

def State.setPhase (s : State) (x : Phase) : State := { s with phase := x }
def State.setBus (s : State) (x : List BusEntry) : State := { s with bus := x }
def State.setMtime (s : State) (x : Word64) : State := { s with mtime := x }
def State.setMtimecmp (s : State) (x : List Word64) : State := { s with mtimecmp := x }
def State.setMip (s : State) (x : List Mip) : State := { s with mip := x }
def State.setPlic (s : State) (x : Plic) : State := { s with plic := x }
def State.setMarkers (s : State) (x : List Marker) : State := { s with markers := x }
def State.setFilterMask (s : State) (x : List Word32) : State := { s with filterMask := x }
def State.setPmps (s : State) (x : List (List PmpBlock)) : State := { s with pmps := x }
def State.setMem (s : State) (x : Memory) : State := { s with mem := x }
def State.setClockUs (s : State) (x : Nat) : State := { s with clockUs := x }
def State.setClockDraws (s : State) (x : Nat) : State := { s with clockDraws := x }
def State.setExtLog (s : State) (x : List ExtAccess) : State := { s with extLog := x }
def State.setQueue (s : State) (x : List Bytes) : State := { s with queue := x }
def State.setOut (s : State) (x : Output) : State := { s with out := x }

/-! ## Registers by index -/

/-- `mtimecmp[i]` (R37). -/
def State.timecmp (s : State) (i : Nat) : Word64 := s.mtimecmp.getD i 0#64

/-- The `mip` bits of hart `h` (R31). -/
def State.mipOf (s : State) (h : Nat) : Mip := s.mip.getD h ⟨false, false, false, false⟩

/-- `source_priority[i]`, `1 ≤ i ≤ S` (R39). -/
def Plic.prio (p : Plic) (i : Nat) : BitVec 3 := p.priority.getD (i - 1) 0#3

/-- `level[i]`, `1 ≤ i ≤ S` (R39). -/
def Plic.lev (p : Plic) (i : Nat) : Bool := p.level.getD (i - 1) false

/-- `target_priority[a]` (R39). -/
def Plic.thresh (p : Plic) (a : Nat) : Word32 := p.threshold.getD a 0#32

/-- `enable[a*W + w]` (R39). -/
def State.enableWord (s : State) (a w : Nat) : Word32 := s.plic.enable.getD (a * s.cfg.words + w) 0#32

/-- Hart `m`'s marker (R43). -/
def State.marker (s : State) (m : Nat) : Marker := s.markers.getD m ⟨0#32, 0#32⟩

/-- `wid_mask` of filter `f` (R44). -/
def State.mask (s : State) (f : Nat) : Word32 := s.filterMask.getD f 0#32

/-- Block `k` of PMP `p` (R45). -/
def State.block (s : State) (p k : Nat) : PmpBlock := (s.pmps.getD p []).getD k ⟨0#32, 0#64, 0#64, 0#32⟩

def State.setMarker (s : State) (m : Nat) (x : Marker) : State := s.setMarkers (s.markers.set m x)

def State.setMask (s : State) (f : Nat) (x : Word32) : State := s.setFilterMask (s.filterMask.set f x)

def State.setBlock (s : State) (p k : Nat) (x : PmpBlock) : State :=
  s.setPmps (s.pmps.set p ((s.pmps.getD p []).set k x))

/-- The Hart view (R36): the world of the issuing hart; a hart that is not there has none (log entry 18). -/
def State.worldOf (s : State) (h : Nat) : Option Word32 := (s.markers[h]?).map (·.wid)

/-- R270: the issuing hart is in the trusted world. -/
def State.trusted (s : State) (h : Nat) : Bool :=
  match s.worldOf h with
  | some w => decide (w.toNat = s.cfg.widTrusted)
  | none => false

/-! ## What a device answers -/

/-- The state an access leaves and what it answers: the bytes of a load (none for a store), or `none`: refused. -/
abbrev Served := State × Option Bytes

/-- `refuse` (00_scope.md R16): `ok = false`, no further state change. -/
def refuse (s : State) : Served := (s, none)

/-! ## How an access ends -/

/-- A refused access becomes an access fault on the issuing hart, with `mtval` the transaction's start address (R320,
D43). Trap entry itself is the hart's (R328). -/
def State.raiseAccessFault (s : State) (h : Nat) (k : FaultKind) (addr : Word64) : State :=
  s.setOut (.accessFault ⟨h, k, addr⟩)

/-- The end of a load: its bytes, or the fault (R161, R320). -/
def finishLoad (h : Nat) (k : LoadKind) (addr : Word64) : Served → Out
  | (s, some b) => .next (s.setOut (.loaded b))
  | (s, none) => .next (s.raiseAccessFault h (faultKind k) addr)

/-- The end of a store: `true`, or the fault (R162, R320). -/
def finishStore (h : Nat) (addr : Word64) : Served → Out
  | (s, some _) => .next (s.setOut .stored)
  | (s, none) => .next (s.raiseAccessFault h .store addr)

/-- The size a device declares (R46 to R48, R160); `none` where no such device was constructed. -/
def deviceSize (c : Config) : Device → Option Nat
  | .clint => some clintSize
  | .plic => some c.plicSize
  | .marker m => if m < c.nHarts then some 8 else none
  | .filter f => if f < c.filters.length then some 4 else none
  | .pmp p => (c.pmpBlocks[p]?).map (0x18 * ·)
  | .ram size => some size
  | .external _ size => some size

/-- The bus forwards to a device only accesses of at least one byte that lie inside it (R161, R167, D2). -/
def forwards (c : Config) (d : Device) (off len : Nat) : Bool :=
  match deviceSize c d with
  | some size => decide (len ≠ 0) && decide (off + len ≤ size)
  | none => false

/-- The address of a device's offset: the base of its bus entry and the offset (R161, log entry 11). -/
def State.portAddr (s : State) (d : Device) (off : Nat) : Word64 :=
  match s.bus.find? (fun e => decide (e.device = d)) with
  | some e => BitVec.ofNat 64 (e.base + off)
  | none => BitVec.ofNat 64 off

/-- A load at a device's port, as the bus forwards it. -/
def portLoad (d : Device) (r : LoadReq) (serve : State → Served) (s : State) : Out :=
  finishLoad r.hart r.kind (s.portAddr d r.off) (if forwards s.cfg d r.off r.len then serve s else refuse s)

/-- A store at a device's port, as the bus forwards it. -/
def portStore (d : Device) (r : StoreReq) (serve : State → Served) (s : State) : Out :=
  finishStore r.hart (s.portAddr d r.off) (if forwards s.cfg d r.off r.data.length then serve s else refuse s)

/-! ## The fetch of the next record -/

/-- The configuration rows, performed only at construction (R120). -/
def isConfiguration : Instr → Bool
  | .busAddDevice _ _ _ => true
  | .sysConstruct _ => true
  | _ => false

/-- Takes the record from the queue. A request that is no configuration ends construction (R51, log entry 14). -/
def State.take (s : State) (rest : List Bytes) (configuration : Bool) : State :=
  if configuration then s.setQueue rest else (s.setQueue rest).setPhase .running

/-- What stands at the head of the queue (R100: the host's order; log entry 2). Before construction only the
configuration rows are looked at (R360). -/
def State.fetch (s : State) : Fetch :=
  match s.queue with
  | [] => .idle
  | bytes :: rest =>
    match decodeRecord bytes with
    | none => .malformed
    | some (.transaction i) =>
      if isConfiguration i then .run i (s.take rest true)
      else if s.phase = .unbuilt then .notConstructed else .run i (s.take rest false)
    | some (.atomic k h addr) => if s.phase = .unbuilt then .notConstructed else .atomic k h addr (s.take rest false)
    | some (.fence _) => if s.phase = .unbuilt then .notConstructed else .fence (s.take rest false)

/-- R103, U13: an atomic access is outside the interface and refused; an LR as a load, an AMO or SC as a store
(the exception's name in R320; log entry 17). -/
def serveAtomic (k : AtomicKind) (h : Nat) (addr : Word64) (s : State) : Out :=
  match k with
  | .lr => .next (s.raiseAccessFault h .load addr)
  | .amo => .next (s.raiseAccessFault h .store addr)
  | .sc => .next (s.raiseAccessFault h .store addr)

/-- R102: a fence has no effect on the block; it returns nothing. -/
def serveFence (s : State) : Out := .next (s.setOut .none)

end Sys2Proof.Machine
end

