-- ==== Sys2Proof/Machine/Flags.lean ====
section
/-! DEFINITION. The block's only flags, the four `mip` bits of each hart (10_state.md R31, R33), and every computation
of them: MTIP (41_clint.md R181), MSIP (R184), MEIP and SEIP (42_plic.md R230, R231, R234). -/

namespace Sys2Proof.Machine

/-- R181: `MTIP(i) ← (mtime ≥ mtimecmp[i])`, unsigned, for every hart. -/
def recomputeMtip (s : State) : State :=
  s.setMip (s.mip.mapIdx fun i m =>
    if i < s.cfg.nHarts then { m with mtip := decide (s.timecmp i ≤ s.mtime) } else m)

/-- R184: `MSIP(i)` becomes bit 0 of byte 0 of `msip[i]`, for every hart whose byte 0 the store covers (D10). -/
def storeMsip (off : Nat) (b : Bytes) (s : State) : State :=
  s.setMip (s.mip.mapIdx fun i m =>
    if i < s.cfg.nHarts ∧ off ≤ 4 * i ∧ 4 * i < off + b.length then
      { m with msip := (b.getD (4 * i - off) 0#8).getLsbD 0 }
    else m)

/-- R230: context `a` could claim IRQ `i` now. -/
def eligible (s : State) (a i : Nat) : Bool :=
  decide (1 ≤ i) && decide (i ≤ s.cfg.numSources)
    && bitAt s.plic.pending i
    && (s.enableWord a (i / 32)).getLsbD (i % 32)
    && !bitAt s.plic.claimed i
    && decide ((s.plic.thresh a).toNat < (s.plic.prio i).toNat)

/-- R231's loop over ids `i, i + 1, …` with the best id so far and its priority. -/
def bestFrom (s : State) (a : Nat) : Nat → Nat → Nat → Nat → Nat
  | 0, _, best, _ => best
  | n + 1, i, best, bp =>
    if eligible s a i && decide (bp < (s.plic.prio i).toNat) then bestFrom s a n (i + 1) i (s.plic.prio i).toNat
    else bestFrom s a n (i + 1) best bp

/-- R231: the eligible IRQ of greatest priority, ties to the lowest id; 0 when there is none. -/
def best (s : State) (a : Nat) : Nat := bestFrom s a s.cfg.numSources 1 0 0

/-- R234, R238: the line a context drives; modes U and H drive none. -/
def driveLine (mode : Mode) (line : Bool) (m : Mip) : Mip :=
  match mode with
  | .m => { m with meip := line }
  | .s => { m with seip := line }
  | .h => m
  | .u => m

/-- One context's turn of R234. -/
def driveContext (s : State) (mip : List Mip) (c : Context) : List Mip :=
  mip.modify c.hartid (driveLine c.mode (decide (best s c.addrid ≠ 0)))

/-- R234: every context's line, written to its hart's MEIP or SEIP. -/
def update (s : State) : State := s.setMip (s.contexts.foldl (driveContext s) s.mip)

end Sys2Proof.Machine
end

