-- ==== Sys2Proof/Machine/Clint.lean ====
section
/-! DEFINITION. The CLINT (41_clint.md): the real-time sample, the access frame, the register operations, the port, and
the meanings of its rows. -/

namespace Sys2Proof.Machine

/-! ## Time (R180, R181, R182) -/

/-- R180's formula, exact and then reduced to 64 bits (D11). -/
def realTimeMtime (freqHz anchorUs nowUs : Nat) : Word64 :=
  BitVec.ofNat 64 ((nowUs - anchorUs) * freqHz / 1000000)

/-- The next reading of the wall clock: not before the last one, not before the anchor (D49, log entry 8). -/
def State.nextClock (s : State) : Nat := max s.clockUs s.cfg.anchorUs + Config.clockGap s.clockDraws

/-- R180: `mtime` from a fresh reading of the wall clock. -/
def sample (s : State) : State :=
  ((s.setClockUs s.nextClock).setClockDraws (s.clockDraws + 1)).setMtime
    (realTimeMtime s.cfg.freqHz s.cfg.anchorUs s.nextClock)

/-- R182's first line: the sample, in real-time mode only. -/
def sampleIfRealTime (s : State) : State := if s.cfg.realTime then sample s else s

/-- R182: the sample and the MTIP recomputation run around every access, also one that refuses (D13). -/
def clintFrame (op : State → Served) (s : State) : Served :=
  match op (sampleIfRealTime s) with
  | (t, answer) => (recomputeMtip t, answer)

/-! ## The register operations (R183 to R188) -/

/-- `msip[0], msip[1], …` as bytes: bits 31 to 1 of each read 0 (R183, D9). -/
def State.msipBytes (s : State) : Bytes :=
  (List.range s.cfg.nHarts).flatMap fun i => leBytes 4 (if (s.mipOf i).msip then 1 else 0)

/-- `mtimecmp[0], mtimecmp[1], …` as bytes (R185). -/
def State.mtimecmpBytes (s : State) : Bytes :=
  (List.range s.cfg.nHarts).flatMap fun i => leBytes 8 (s.timecmp i).toNat

def ldMsip (r : LoadReq) (s : State) : Served := (s, some (window s.msipBytes r.off r.len))

def stMsip (r : StoreReq) (s : State) : Served := (storeMsip r.off r.data s, some [])

def ldMtimecmp (r : LoadReq) (s : State) : Served := (s, some (window s.mtimecmpBytes (r.off - 0x4000) r.len))

/-- R186: the family's bytes patched, then read back as `mtimecmp[0], mtimecmp[1], …`. -/
def stMtimecmp (r : StoreReq) (s : State) : Served :=
  (s.setMtimecmp ((List.range s.cfg.nHarts).map fun i =>
    BitVec.ofNat 64 (leValue (window (patch s.mtimecmpBytes (r.off - 0x4000) r.data) (8 * i) 8))), some [])

def ldMtime (r : LoadReq) (s : State) : Served := (s, some (readWindow s.mtime (r.off - 0xBFF8) r.len))

def stMtime (r : StoreReq) (s : State) : Served :=
  (s.setMtime (writeWindow s.mtime (r.off - 0xBFF8) r.data), some [])

/-! ## The port: the frame around the family that R123 selects -/

def clintLoad (r : LoadReq) : State → Served :=
  clintFrame fun s =>
    match clintFamily s.cfg.nHarts r.off r.len with
    | some .msip => ldMsip r s
    | some .mtimecmp => ldMtimecmp r s
    | some .mtime => ldMtime r s
    | none => refuse s

def clintStore (r : StoreReq) : State → Served :=
  clintFrame fun s =>
    match clintFamily s.cfg.nHarts r.off r.data.length with
    | some .msip => stMsip r s
    | some .mtimecmp => stMtimecmp r s
    | some .mtime => stMtime r s
    | none => refuse s

/-! ## The rows. An access whose offset selects another row is that row's (R122, log entry 11). -/

/-- CLINT.LD_MSIP (R183). -/
def execClintLdMsip (r : LoadReq) (s : State) : Out :=
  portLoad .clint r (fun s =>
    if clintFamily s.cfg.nHarts r.off r.len = some .msip then clintFrame (ldMsip r) s else clintLoad r s) s

/-- CLINT.ST_MSIP (R184). -/
def execClintStMsip (r : StoreReq) (s : State) : Out :=
  portStore .clint r (fun s =>
    if clintFamily s.cfg.nHarts r.off r.data.length = some .msip then clintFrame (stMsip r) s
    else clintStore r s) s

/-- CLINT.LD_MTIMECMP (R185). -/
def execClintLdMtimecmp (r : LoadReq) (s : State) : Out :=
  portLoad .clint r (fun s =>
    if clintFamily s.cfg.nHarts r.off r.len = some .mtimecmp then clintFrame (ldMtimecmp r) s
    else clintLoad r s) s

/-- CLINT.ST_MTIMECMP (R186). -/
def execClintStMtimecmp (r : StoreReq) (s : State) : Out :=
  portStore .clint r (fun s =>
    if clintFamily s.cfg.nHarts r.off r.data.length = some .mtimecmp then clintFrame (stMtimecmp r) s
    else clintStore r s) s

/-- CLINT.LD_MTIME (R187). -/
def execClintLdMtime (r : LoadReq) (s : State) : Out :=
  portLoad .clint r (fun s =>
    if clintFamily s.cfg.nHarts r.off r.len = some .mtime then clintFrame (ldMtime r) s else clintLoad r s) s

/-- CLINT.ST_MTIME (R188). -/
def execClintStMtime (r : StoreReq) (s : State) : Out :=
  portStore .clint r (fun s =>
    if clintFamily s.cfg.nHarts r.off r.data.length = some .mtime then clintFrame (stMtime r) s
    else clintStore r s) s

/-- CLINT.LD_RESERVED (R189): `ok = false` inside the frame. -/
def execClintLdReserved (r : LoadReq) (s : State) : Out :=
  portLoad .clint r (fun s =>
    if clintFamily s.cfg.nHarts r.off r.len = none then clintFrame refuse s else clintLoad r s) s

/-- CLINT.ST_RESERVED (R189): `ok = false` inside the frame. -/
def execClintStReserved (r : StoreReq) (s : State) : Out :=
  portStore .clint r (fun s =>
    if clintFamily s.cfg.nHarts r.off r.data.length = none then clintFrame refuse s else clintStore r s) s

/-- R190's time: the increment in virtual time, a sample in real-time mode (D12, D17). -/
def tickTime (inc : Word64) (s : State) : State :=
  if s.cfg.realTime then sample s else s.setMtime (s.mtime + inc)

/-- CLINT.TICK (R190). -/
def execClintTick (inc : Word64) (s : State) : Out := .next ((recomputeMtip (tickTime inc s)).setOut .none)

end Sys2Proof.Machine
end

