-- ==== Sys2Proof/Machine/Plic.lean ====
section
/-! DEFINITION. The PLIC (42_plic.md): the register operations, the port, and the meanings of its rows. -/

namespace Sys2Proof.Machine

/-! ## The register operations -/

/-- A 4-byte register's load (R80, C5). -/
def loadWord (v : Word32) (s : State) : Served := (s, some (leBytes 4 v.toNat))

/-- Every state-changing operation ends with Update (R234, D27). -/
def updated (s : State) : Served := (update s, some [])

/-- R221. -/
def ldPriority (i : Nat) (s : State) : Served := loadWord ((s.plic.prio i).setWidth 32) s

/-- R222: bits 2 to 0 of the value (D22). -/
def stPriority (i : Nat) (v : Word32) (s : State) : Served :=
  updated (s.setPlic { s.plic with priority := s.plic.priority.set (i - 1) (v.setWidth 3) })

/-- R223. -/
def ldPending (w : Nat) (s : State) : Served := loadWord (s.plic.pending.getD w 0#32) s

/-- R225. -/
def ldEnable (a w : Nat) (s : State) : Served := loadWord (s.enableWord a w) s

/-- R226: all 32 bits (D24). -/
def stEnable (a w : Nat) (v : Word32) (s : State) : Served :=
  updated (s.setPlic { s.plic with enable := s.plic.enable.set (a * s.cfg.words + w) v })

/-- R227. -/
def ldThreshold (a : Nat) (s : State) : Served := loadWord (s.plic.thresh a) s

/-- R228: saturates at `NUM_PRIORITIES` (D23). -/
def stThreshold (a : Nat) (v : Word32) (s : State) : Served :=
  updated (s.setPlic
    { s.plic with threshold := s.plic.threshold.set a (BitVec.ofNat 32 (min v.toNat s.cfg.numPriorities)) })

/-- R232's first half: IRQ `i` loses its pending bit and gets its claimed bit; 0 changes nothing. -/
def takeClaim (i : Nat) (s : State) : State :=
  if i = 0 then s
  else s.setPlic { s.plic with pending := clearBit s.plic.pending i, claimed := setBit s.plic.claimed i }

/-- R232. -/
def ldClaim (a : Nat) (s : State) : Served :=
  (update (takeClaim (best s a) s), some (leBytes 4 (best s a)))

/-- R233: any id from 1 to S (C2); other values change nothing (D25). -/
def stComplete (v : Word32) (s : State) : Served :=
  updated (if 1 ≤ v.toNat ∧ v.toNat ≤ s.cfg.numSources then
      s.setPlic { s.plic with claimed := clearBit s.plic.claimed v.toNat }
    else s)

/-! ## The port: R220's shape, then R124 -/

def plicLoad (r : LoadReq) (s : State) : Served :=
  if plicAligned r.off r.len then
    match plicRegister s.cfg s.contexts.length r.off with
    | .priority i => ldPriority i s
    | .pending w => ldPending w s
    | .enable a w => ldEnable a w s
    | .threshold a => ldThreshold a s
    | .claim a => ldClaim a s
    | .reserved => refuse s
  else refuse s

def plicStore (r : StoreReq) (s : State) : Served :=
  if plicAligned r.off r.data.length then
    match plicRegister s.cfg s.contexts.length r.off with
    | .priority i => stPriority i (storeValue r.data) s
    | .pending _ => refuse s
    | .enable a w => stEnable a w (storeValue r.data) s
    | .threshold a => stThreshold a (storeValue r.data) s
    | .claim _ => stComplete (storeValue r.data) s
    | .reserved => refuse s
  else refuse s

/-- The register an access selects; `none` is a misaligned access or a length other than 4 (R220). -/
def State.plicSelects (s : State) (off len : Nat) : Option PlicRegister :=
  if plicAligned off len then some (plicRegister s.cfg s.contexts.length off) else none

/-! ## The rows. An access whose offset selects another row is that row's (R122, log entry 11). -/

/-- PLIC.MISALIGNED (R220): the access frame. -/
def execPlicMisaligned (a : Access) (s : State) : Out :=
  match a with
  | .load r => portLoad .plic r (fun s => if plicAligned r.off r.len then plicLoad r s else refuse s) s
  | .store r => portStore .plic r (fun s => if plicAligned r.off r.data.length then plicStore r s else refuse s) s

/-- PLIC.LD_PRIORITY (R221). -/
def execPlicLdPriority (r : LoadReq) (s : State) : Out :=
  portLoad .plic r (fun s =>
    match s.plicSelects r.off r.len with
    | some (.priority i) => ldPriority i s
    | _ => plicLoad r s) s

/-- PLIC.ST_PRIORITY (R222). -/
def execPlicStPriority (r : StoreReq) (s : State) : Out :=
  portStore .plic r (fun s =>
    match s.plicSelects r.off r.data.length with
    | some (.priority i) => stPriority i (storeValue r.data) s
    | _ => plicStore r s) s

/-- PLIC.LD_PENDING (R223). -/
def execPlicLdPending (r : LoadReq) (s : State) : Out :=
  portLoad .plic r (fun s =>
    match s.plicSelects r.off r.len with
    | some (.pending w) => ldPending w s
    | _ => plicLoad r s) s

/-- PLIC.ST_PENDING (R224): read-only, refuses. -/
def execPlicStPending (r : StoreReq) (s : State) : Out :=
  portStore .plic r (fun s =>
    match s.plicSelects r.off r.data.length with
    | some (.pending _) => refuse s
    | _ => plicStore r s) s

/-- PLIC.LD_ENABLE (R225). -/
def execPlicLdEnable (r : LoadReq) (s : State) : Out :=
  portLoad .plic r (fun s =>
    match s.plicSelects r.off r.len with
    | some (.enable a w) => ldEnable a w s
    | _ => plicLoad r s) s

/-- PLIC.ST_ENABLE (R226). -/
def execPlicStEnable (r : StoreReq) (s : State) : Out :=
  portStore .plic r (fun s =>
    match s.plicSelects r.off r.data.length with
    | some (.enable a w) => stEnable a w (storeValue r.data) s
    | _ => plicStore r s) s

/-- PLIC.LD_THRESHOLD (R227). -/
def execPlicLdThreshold (r : LoadReq) (s : State) : Out :=
  portLoad .plic r (fun s =>
    match s.plicSelects r.off r.len with
    | some (.threshold a) => ldThreshold a s
    | _ => plicLoad r s) s

/-- PLIC.ST_THRESHOLD (R228). -/
def execPlicStThreshold (r : StoreReq) (s : State) : Out :=
  portStore .plic r (fun s =>
    match s.plicSelects r.off r.data.length with
    | some (.threshold a) => stThreshold a (storeValue r.data) s
    | _ => plicStore r s) s

/-- PLIC.LD_CLAIM (R232). -/
def execPlicLdClaim (r : LoadReq) (s : State) : Out :=
  portLoad .plic r (fun s =>
    match s.plicSelects r.off r.len with
    | some (.claim a) => ldClaim a s
    | _ => plicLoad r s) s

/-- PLIC.ST_COMPLETE (R233). -/
def execPlicStComplete (r : StoreReq) (s : State) : Out :=
  portStore .plic r (fun s =>
    match s.plicSelects r.off r.data.length with
    | some (.claim _) => stComplete (storeValue r.data) s
    | _ => plicStore r s) s

/-- PLIC.LD_RESERVED (R229): refuses, no Update. -/
def execPlicLdReserved (r : LoadReq) (s : State) : Out :=
  portLoad .plic r (fun s =>
    match s.plicSelects r.off r.len with
    | some .reserved => refuse s
    | _ => plicLoad r s) s

/-- PLIC.ST_RESERVED (R229): refuses, no Update. -/
def execPlicStReserved (r : StoreReq) (s : State) : Out :=
  portStore .plic r (fun s =>
    match s.plicSelects r.off r.data.length with
    | some .reserved => refuse s
    | _ => plicStore r s) s

/-- R235: a rising edge sets pending, unless the source is claimed and `EDGE_WHILE_CLAIMED` drops it (D28). -/
def latches (s : State) (irq : Nat) (level : Bool) : Bool :=
  !s.plic.lev irq && level
    && (!bitAt s.plic.claimed irq || decide (s.cfg.edgeWhileClaimed = .latch))

/-- R235's writes, before Update. -/
def setLevel (irq : Nat) (level : Bool) (s : State) : State :=
  s.setPlic
    { s.plic with
      level := s.plic.level.set (irq - 1) level
      pending := if latches s irq level then setBit s.plic.pending irq else s.plic.pending }

/-- PLIC.SET_PENDING (R235); an id outside 1 to S is ignored (D29). -/
def execPlicSetPending (irq : Nat) (level : Bool) (s : State) : Out :=
  if 1 ≤ irq ∧ irq ≤ s.cfg.numSources then .next ((update (setLevel irq level s)).setOut .none)
  else .next (s.setOut .none)

end Sys2Proof.Machine
end

