-- ==== Sys2Proof/Machine/WorldGuard.lean ====
section
/-! DEFINITION. The world-guard (43_worldguard.md): the gates, the register operations of marker, filter and PMP, their
ports, and the meanings of their rows. -/

namespace Sys2Proof.Machine

/-! ## The gates (R283 to R285, R299 to R302) -/

/-- R283, in unbounded arithmetic (D1). -/
def inRange (c : Config) (f addr len : Nat) : Bool :=
  match c.filters[f]? with
  | some p => decide (p.addr ≤ addr) && decide (addr + len ≤ p.addr + p.size)
  | none => false

/-- R284. -/
def filterValid (s : State) (f : Nat) (w : Word32) : Bool :=
  decide (w.toNat ≠ 0) && decide (w.toNat ≤ s.cfg.widTrusted)
    && ((s.mask f).getLsbD w.toNat || decide (w.toNat = s.cfg.widTrusted))

/-- R285. A hart that is not there passes no gate (log entry 18). -/
def filterGate (s : State) (f h addr len : Nat) : Bool :=
  match s.worldOf h with
  | some w => inRange s.cfg f addr len && filterValid s f w
  | none => false

/-- R299, in unbounded arithmetic (D40). -/
def covers (b : PmpBlock) (addr len : Nat) : Bool :=
  decide (b.basePage.toNat * 4096 ≤ addr)
    && decide (addr + len ≤ (b.basePage.toNat + b.pageCount.toNat) * 4096)

/-- R300: bit `2w` of `perm` grants a store, bit `2w + 1` a load or a fetch. -/
def grants (b : PmpBlock) (w : Nat) (k : AccessKind) : Bool :=
  decide (w ≤ 15) &&
    (match k with
     | .store => b.perm.getLsbD (2 * w)
     | .load => b.perm.getLsbD (2 * w + 1)
     | .fetch => b.perm.getLsbD (2 * w + 1))

/-- R301, C3: the trusted world, or some block that covers the whole request and grants it. -/
def pmpValid (s : State) (p : Nat) (w : Word32) (addr len : Nat) (k : AccessKind) : Bool :=
  decide (w.toNat = s.cfg.widTrusted)
    || (s.pmps.getD p []).any fun b => covers b addr len && grants b w.toNat k

/-- R302. -/
def pmpGate (s : State) (p h addr len : Nat) (k : AccessKind) : Bool :=
  match s.worldOf h with
  | some w => pmpValid s p w addr len k
  | none => false

/-- R165: one guard's decision. -/
def gate (s : State) (g : Guard) (h addr len : Nat) (k : AccessKind) : Bool :=
  match g with
  | .filter f => filterGate s f h addr len
  | .pmp p => pmpGate s p h addr len k

/-! ## Marker registers (R272 to R275) -/

def ldMarkerWid (m : Nat) (r : LoadReq) (s : State) : Served := (s, some (readWindow (s.marker m).wid r.off r.len))

def ldMarkerLock (m : Nat) (r : LoadReq) (s : State) : Served :=
  (s, some (readWindow (s.marker m).lock (r.off - 4) r.len))

/-- R273: refuses when locked, or for a world above `WID_TRUSTED` (D33). -/
def stMarkerWid (m : Nat) (r : StoreReq) (s : State) : Served :=
  if (s.marker m).lock ≠ 0#32 then refuse s
  else if s.cfg.widTrusted < (writeWindow (s.marker m).wid r.off r.data).toNat then refuse s
  else (s.setMarker m { s.marker m with wid := writeWindow (s.marker m).wid r.off r.data }, some [])

/-- R275: refuses when locked. -/
def stMarkerLock (m : Nat) (r : StoreReq) (s : State) : Served :=
  if (s.marker m).lock ≠ 0#32 then refuse s
  else (s.setMarker m { s.marker m with lock := writeWindow (s.marker m).lock (r.off - 4) r.data }, some [])

/-! ## Filter register (R280, R281) -/

def ldFilterWid (f : Nat) (r : LoadReq) (s : State) : Served := (s, some (readWindow (s.mask f) r.off r.len))

def stFilterWid (f : Nat) (r : StoreReq) (s : State) : Served :=
  (s.setMask f (writeWindow (s.mask f) r.off r.data), some [])

/-! ## PMP fields (R291 to R298); `k` is the block, `r.off % 0x18` the offset in it -/

def ldPmpPerm (p k : Nat) (r : LoadReq) (s : State) : Served :=
  (s, some (readWindow (s.block p k).perm (r.off % 0x18) r.len))

def ldPmpBase (p k : Nat) (r : LoadReq) (s : State) : Served :=
  (s, some (readWindow (s.block p k).basePage (r.off % 0x18 - 0x04) r.len))

def ldPmpCount (p k : Nat) (r : LoadReq) (s : State) : Served :=
  (s, some (readWindow (s.block p k).pageCount (r.off % 0x18 - 0x0C) r.len))

def ldPmpLock (p k : Nat) (r : LoadReq) (s : State) : Served :=
  (s, some (readWindow (s.block p k).lock (r.off % 0x18 - 0x14) r.len))

/-- A locked block refuses writes (R292, R294, R296, R298). -/
def stPmpBlock (p k : Nat) (new : PmpBlock) (s : State) : Served :=
  if (s.block p k).lock ≠ 0#32 then refuse s else (s.setBlock p k new, some [])

def stPmpPerm (p k : Nat) (r : StoreReq) (s : State) : Served :=
  stPmpBlock p k { s.block p k with perm := writeWindow (s.block p k).perm (r.off % 0x18) r.data } s

def stPmpBase (p k : Nat) (r : StoreReq) (s : State) : Served :=
  stPmpBlock p k { s.block p k with basePage := writeWindow (s.block p k).basePage (r.off % 0x18 - 0x04) r.data } s

def stPmpCount (p k : Nat) (r : StoreReq) (s : State) : Served :=
  stPmpBlock p k
    { s.block p k with pageCount := writeWindow (s.block p k).pageCount (r.off % 0x18 - 0x0C) r.data } s

def stPmpLock (p k : Nat) (r : StoreReq) (s : State) : Served :=
  stPmpBlock p k { s.block p k with lock := writeWindow (s.block p k).lock (r.off % 0x18 - 0x14) r.data } s

/-! ## The ports: the trusted-world check (R270), the register window (R271), the register -/

/-- The device a guard's registers are. -/
def guardDevice : GuardDevice → Device
  | .marker m => .marker m
  | .filter f => .filter f
  | .pmp p => .pmp p

/-- R271 and the register, after R270. -/
def registerLoad (g : GuardDevice) (r : LoadReq) (s : State) : Served :=
  match g with
  | .marker m =>
    match markerRegister r.off r.len with
    | some .wid => ldMarkerWid m r s
    | some .lock => ldMarkerLock m r s
    | none => refuse s
  | .filter f => if filterRegister r.off r.len then ldFilterWid f r s else refuse s
  | .pmp p =>
    match pmpField r.off r.len with
    | some (k, .perm) => ldPmpPerm p k r s
    | some (k, .basePage) => ldPmpBase p k r s
    | some (k, .pageCount) => ldPmpCount p k r s
    | some (k, .lock) => ldPmpLock p k r s
    | none => refuse s

/-- R271 and the register, after R270. -/
def registerStore (g : GuardDevice) (r : StoreReq) (s : State) : Served :=
  match g with
  | .marker m =>
    match markerRegister r.off r.data.length with
    | some .wid => stMarkerWid m r s
    | some .lock => stMarkerLock m r s
    | none => refuse s
  | .filter f => if filterRegister r.off r.data.length then stFilterWid f r s else refuse s
  | .pmp p =>
    match pmpField r.off r.data.length with
    | some (k, .perm) => stPmpPerm p k r s
    | some (k, .basePage) => stPmpBase p k r s
    | some (k, .pageCount) => stPmpCount p k r s
    | some (k, .lock) => stPmpLock p k r s
    | none => refuse s

def guardLoad (g : GuardDevice) (r : LoadReq) (s : State) : Served :=
  if s.trusted r.hart then registerLoad g r s else refuse s

def guardStore (g : GuardDevice) (r : StoreReq) (s : State) : Served :=
  if s.trusted r.hart then registerStore g r s else refuse s

/-- R271: the access does not lie inside one register of the device. -/
def crosses (g : GuardDevice) (off len : Nat) : Bool :=
  match g with
  | .marker _ => decide (markerRegister off len = none)
  | .filter _ => !filterRegister off len
  | .pmp _ => decide (pmpField off len = none)

/-! ## The rows. An access that selects another row is that row's (R122, log entry 11). -/

/-- WG.UNTRUSTED (R270): an untrusted hart is refused, whatever the register. -/
def execWgUntrusted (g : GuardDevice) (a : Access) (s : State) : Out :=
  match a with
  | .load r => portLoad (guardDevice g) r (fun s => if s.trusted r.hart then registerLoad g r s else refuse s) s
  | .store r => portStore (guardDevice g) r (fun s => if s.trusted r.hart then registerStore g r s else refuse s) s

/-- WG.CROSSING (R271): an access that lies in no one register is refused. -/
def execWgCrossing (g : GuardDevice) (a : Access) (s : State) : Out :=
  match a with
  | .load r =>
    portLoad (guardDevice g) r (fun s => if crosses g r.off r.len then refuse s else guardLoad g r s) s
  | .store r =>
    portStore (guardDevice g) r (fun s => if crosses g r.off r.data.length then refuse s else guardStore g r s) s

/-- A row's own operation after R270, where the access selects it; the port's otherwise. -/
def guardRowLoad (g : GuardDevice) (r : LoadReq) (selects : Bool) (op : State → Served) (s : State) : Out :=
  portLoad (guardDevice g) r (fun s => if s.trusted r.hart && selects then op s else guardLoad g r s) s

def guardRowStore (g : GuardDevice) (r : StoreReq) (selects : Bool) (op : State → Served) (s : State) : Out :=
  portStore (guardDevice g) r (fun s => if s.trusted r.hart && selects then op s else guardStore g r s) s

/-- The access lies inside the named field of some PMP block (R127). -/
def inField (off len : Nat) (f : PmpField) : Bool := decide ((pmpField off len).map (·.2) = some f)

/-- WGM.LD_WID (R272). -/
def execWgmLdWid (m : Nat) (r : LoadReq) (s : State) : Out :=
  guardRowLoad (.marker m) r (decide (markerRegister r.off r.len = some .wid)) (ldMarkerWid m r) s

/-- WGM.ST_WID (R273). -/
def execWgmStWid (m : Nat) (r : StoreReq) (s : State) : Out :=
  guardRowStore (.marker m) r (decide (markerRegister r.off r.data.length = some .wid)) (stMarkerWid m r) s

/-- WGM.LD_LOCK (R274). -/
def execWgmLdLock (m : Nat) (r : LoadReq) (s : State) : Out :=
  guardRowLoad (.marker m) r (decide (markerRegister r.off r.len = some .lock)) (ldMarkerLock m r) s

/-- WGM.ST_LOCK (R275). -/
def execWgmStLock (m : Nat) (r : StoreReq) (s : State) : Out :=
  guardRowStore (.marker m) r (decide (markerRegister r.off r.data.length = some .lock)) (stMarkerLock m r) s

/-- WGF.LD_WID (R280). -/
def execWgfLdWid (f : Nat) (r : LoadReq) (s : State) : Out :=
  guardRowLoad (.filter f) r (filterRegister r.off r.len) (ldFilterWid f r) s

/-- WGF.ST_WID (R281). -/
def execWgfStWid (f : Nat) (r : StoreReq) (s : State) : Out :=
  guardRowStore (.filter f) r (filterRegister r.off r.data.length) (stFilterWid f r) s

/-- WGF.GATE (R285): the decision on an access of hart `h`, for any kind; reads state, changes none (R165). -/
def execWgfGate (f h : Nat) (addr : Word64) (len : Nat) (_k : AccessKind) (s : State) : Out :=
  .next (s.setOut (.gate (filterGate s f h addr.toNat len)))

/-- WGP.LD_PERM (R291). -/
def execWgpLdPerm (p : Nat) (r : LoadReq) (s : State) : Out :=
  guardRowLoad (.pmp p) r (inField r.off r.len .perm) (ldPmpPerm p (r.off / 0x18) r) s

/-- WGP.ST_PERM (R292). -/
def execWgpStPerm (p : Nat) (r : StoreReq) (s : State) : Out :=
  guardRowStore (.pmp p) r (inField r.off r.data.length .perm) (stPmpPerm p (r.off / 0x18) r) s

/-- WGP.LD_BASE (R293). -/
def execWgpLdBase (p : Nat) (r : LoadReq) (s : State) : Out :=
  guardRowLoad (.pmp p) r (inField r.off r.len .basePage) (ldPmpBase p (r.off / 0x18) r) s

/-- WGP.ST_BASE (R294). -/
def execWgpStBase (p : Nat) (r : StoreReq) (s : State) : Out :=
  guardRowStore (.pmp p) r (inField r.off r.data.length .basePage) (stPmpBase p (r.off / 0x18) r) s

/-- WGP.LD_COUNT (R295). -/
def execWgpLdCount (p : Nat) (r : LoadReq) (s : State) : Out :=
  guardRowLoad (.pmp p) r (inField r.off r.len .pageCount) (ldPmpCount p (r.off / 0x18) r) s

/-- WGP.ST_COUNT (R296). -/
def execWgpStCount (p : Nat) (r : StoreReq) (s : State) : Out :=
  guardRowStore (.pmp p) r (inField r.off r.data.length .pageCount) (stPmpCount p (r.off / 0x18) r) s

/-- WGP.LD_LOCK (R297). -/
def execWgpLdLock (p : Nat) (r : LoadReq) (s : State) : Out :=
  guardRowLoad (.pmp p) r (inField r.off r.len .lock) (ldPmpLock p (r.off / 0x18) r) s

/-- WGP.ST_LOCK (R298). -/
def execWgpStLock (p : Nat) (r : StoreReq) (s : State) : Out :=
  guardRowStore (.pmp p) r (inField r.off r.data.length .lock) (stPmpLock p (r.off / 0x18) r) s

/-- WGP.GATE (R302): the decision on an access of hart `h`; reads state, changes none (R165). -/
def execWgpGate (p h : Nat) (addr : Word64) (len : Nat) (k : AccessKind) (s : State) : Out :=
  .next (s.setOut (.gate (pmpGate s p h addr.toNat len k)))

end Sys2Proof.Machine
end

