-- ==== Sys2Proof/Machine/Bus.lean ====
section
/-! DEFINITION. The bus (40_bus.md): the lookup, the guards, the dispatch to a device, and the meanings of BUS.LOAD and
BUS.STORE. The devices outside the block (00_scope.md R10, D4) answer here. -/

namespace Sys2Proof.Machine

/-! ## Devices outside the block -/

/-- A RAM device standing at `base` (log entry 6): a load returns the stored bytes. -/
def ramLoad (base : Nat) (r : LoadReq) (s : State) : Served := (s, some (s.mem.readBytes (base + r.off) r.len))

/-- A RAM device: a store writes its bytes. -/
def ramStore (base : Nat) (r : StoreReq) (s : State) : Served :=
  (s.setMem (s.mem.writeBytes (base + r.off) r.data), some [])

/-- An external device's load (R160): whether it is honoured and each byte are free functions of the load (D4, log entry
7). -/
def externalLoad (id : Nat) (r : LoadReq) (s : State) : Served :=
  (s.setExtLog (⟨id, .load r⟩ :: s.extLog),
    if Config.extLoadOk s.extLog id r then some ((List.range r.len).map (Config.extLoadByte s.extLog id r)) else none)

/-- An external device's store (R160): whether it is honoured is a free function of the store (D4, log entry 7). -/
def externalStore (id : Nat) (r : StoreReq) (s : State) : Served :=
  (s.setExtLog (⟨id, .store r⟩ :: s.extLog), if Config.extStoreOk s.extLog id r then some [] else none)

/-! ## Dispatch -/

/-- R163: of two entries, the one of the greater base that is not above the address. -/
def better (addr : Nat) (best : Option BusEntry) (e : BusEntry) : Option BusEntry :=
  if e.base ≤ addr then
    match best with
    | some b => if b.base ≤ e.base then some e else some b
    | none => some e
  else best

/-- R163: the entry with the greatest base that is not above the address. -/
def findDevice (bus : List BusEntry) (addr : Nat) : Option BusEntry := bus.foldl (better addr) none

/-- R161's first half: the entry an access is forwarded to, when it lies wholly inside it; `len = 0` refuses (D2). -/
def State.route (s : State) (addr len : Nat) : Option BusEntry :=
  if len = 0 then none
  else
    match findDevice s.bus addr with
    | some e => if addr - e.base + len ≤ e.size then some e else none
    | none => none

/-- R165, R304: every guard of the entry allows the access. -/
def State.guardsAllow (s : State) (e : BusEntry) (h addr len : Nat) (k : AccessKind) : Bool :=
  e.guards.all fun g => gate s g h addr len k

/-- The device's load (R160, R122 step 3). -/
def deviceLoad (e : BusEntry) (r : LoadReq) (s : State) : Served :=
  match e.device with
  | .clint => clintLoad r s
  | .plic => plicLoad r s
  | .marker m => guardLoad (.marker m) r s
  | .filter f => guardLoad (.filter f) r s
  | .pmp p => guardLoad (.pmp p) r s
  | .ram _ => ramLoad e.base r s
  | .external id _ => externalLoad id r s

/-- The device's store (R160, R122 step 3). -/
def deviceStore (e : BusEntry) (r : StoreReq) (s : State) : Served :=
  match e.device with
  | .clint => clintStore r s
  | .plic => plicStore r s
  | .marker m => guardStore (.marker m) r s
  | .filter f => guardStore (.filter f) r s
  | .pmp p => guardStore (.pmp p) r s
  | .ram _ => ramStore e.base r s
  | .external id _ => externalStore id r s

/-- R161: `Load(h, addr, len, kind)`. -/
def busLoad (h addr len : Nat) (k : LoadKind) (s : State) : Served :=
  match s.route addr len with
  | none => refuse s
  | some e =>
    if s.guardsAllow e h addr len (accessKind k) then deviceLoad e ⟨h, k, addr - e.base, len⟩ s else refuse s

/-- R162: `Store(h, addr, len, b)`. -/
def busStore (h addr : Nat) (b : Bytes) (s : State) : Served :=
  match s.route addr b.length with
  | none => refuse s
  | some e =>
    if s.guardsAllow e h addr b.length .store then deviceStore e ⟨h, addr - e.base, b⟩ s else refuse s

/-- BUS.LOAD (R161). A fetch takes the same path (R86); whether the hart presents fetches here is its matter
(`FETCH_VIA_BUS`, log entry 16). -/
def execBusLoad (h : Nat) (addr : Word64) (len : Nat) (k : LoadKind) (s : State) : Out :=
  finishLoad h k addr (busLoad h addr.toNat len k s)

/-- BUS.STORE (R162). -/
def execBusStore (h : Nat) (addr : Word64) (b : Bytes) (s : State) : Out :=
  finishStore h addr (busStore h addr.toNat b s)

end Sys2Proof.Machine
end

