-- ==== Sys2Proof/Machine/Construct.lean ====
section
/-! DEFINITION. Construction (70_reset_and_hazards.md R360, R361): the configuration errors (60_exceptions.md R322), the
PLIC's contexts (42_plic.md R262), the bus map (40_bus.md R164), the state of 10_state.md R49, and the meanings of
SYS.CONSTRUCT and BUS.ADD_DEVICE. -/

namespace Sys2Proof.Machine

/-! ## HART_CONFIG (R262) -/

/-- The segments between commas: as many as commas, and one. -/
def splitCommas : List Char → List (List Char)
  | [] => [[]]
  | c :: cs =>
    if c = ',' then [] :: splitCommas cs
    else
      match splitCommas cs with
      | [] => [[c]]
      | seg :: segs => (c :: seg) :: segs

/-- The four mode characters (D30). -/
def modeOf (c : Char) : Option Mode :=
  if c = 'M' then some .m else if c = 'S' then some .s else if c = 'U' then some .u else if c = 'H' then some .h
  else none

/-- The modes of one hart, left to right: an unknown character, then a repeated one, is an error. -/
def parseSegment (seen : List Mode) : List Char → Except ConfigError (List Mode)
  | [] => .ok []
  | c :: cs =>
    match modeOf c with
    | none => .error .unknownMode
    | some md =>
      if md ∈ seen then .error .duplicateMode
      else
        match parseSegment (md :: seen) cs with
        | .ok mds => .ok (md :: mds)
        | .error e => .error e

/-- The modes of hart `h` and of those after it, each with its hart. -/
def parseSegments (h : Nat) : List (List Char) → Except ConfigError (List (Nat × Mode))
  | [] => .ok []
  | seg :: segs =>
    match parseSegment [] seg with
    | .error e => .error e
    | .ok mds =>
      match parseSegments (h + 1) segs with
      | .error e => .error e
      | .ok rest => .ok (mds.map (fun md => (h, md)) ++ rest)

/-- `addr_config`: contexts numbered in input order. -/
def parseHartConfig (cs : List Char) : Except ConfigError (List Context) :=
  match parseSegments 0 (splitCommas cs) with
  | .ok ps => .ok (ps.mapIdx fun a p => ⟨a, p.1, p.2⟩)
  | .error e => .error e

/-! ## Configuration errors -/

/-- R12: the PLIC's regions are disjoint, fit in the device, and lie at multiples of 4; `A` is the number of contexts. -/
def plicLayoutOk (c : Config) (A : Nat) : Bool :=
  decide (c.priorityBase + 4 * (c.numSources + 1) ≤ c.pendingBase)
    && decide (c.pendingBase + 4 * c.words ≤ c.enableBase)
    && decide (4 * c.words ≤ c.enableStride)
    && decide (c.enableBase + A * c.enableStride ≤ c.contextBase)
    && decide (8 ≤ c.contextStride)
    && decide (c.contextBase + A * c.contextStride ≤ c.plicSize)
    && decide (c.priorityBase % 4 = 0) && decide (c.pendingBase % 4 = 0) && decide (c.enableBase % 4 = 0)
    && decide (c.enableStride % 4 = 0) && decide (c.contextBase % 4 = 0) && decide (c.contextStride % 4 = 0)

/-- The parameters' own errors (R11, R264, R276, R282, R303), for the number `A` of contexts; those of `HART_CONFIG`'s
text and of the device map come apart. -/
def parameterError (c : Config) (A : Nat) : Option ConfigError :=
  if ¬(1 ≤ c.nHarts ∧ c.nHarts ≤ 4095) then some .hartCount
  else if c.freqHz = 0 then some .tickRate
  else if ¬(c.mtimecmpReset.length = c.nHarts ∧ c.mipReset.length = c.nHarts ∧ c.markerWidInit.length = c.nHarts) then
    some .perHartCount
  else if c.numSources = 0 then some .noSources
  else if ¬c.numPriorities < 2 ^ 32 then some .priorityCount
  else if c.nHarts < (splitCommas c.hartConfig).length then some .hartIndex
  else if !plicLayoutOk c A then some .plicLayout
  else if ¬(1 ≤ c.widTrusted ∧ c.widTrusted ≤ 15) then some .trustedWorld
  else if c.markerWidInit.any (fun w => decide (c.widTrusted < w)) then some .markerWorld
  else if c.filters.any (fun f => decide (c.widTrusted < f.widInit)) then some .filterWorld
  else if c.pmpBlocks.any (fun n => decide (c.widTrusted < n)) then some .pmpBlockCount
  else none

/-! ## The bus map (R164) -/

/-- A guard names a filter or PMP that was constructed. -/
def guardExists (c : Config) : Guard → Bool
  | .filter f => decide (f < c.filters.length)
  | .pmp p => decide (p < c.pmpBlocks.length)

/-- The map with an entry at its base's place in the rising order. -/
def insertEntry (e : BusEntry) : List BusEntry → List BusEntry
  | [] => [e]
  | x :: xs => if e.base < x.base then e :: x :: xs else x :: insertEntry e xs

/-- Two entries share a byte. -/
def entriesOverlap (x y : BusEntry) : Bool :=
  decide (x.base < y.base + y.size) && decide (y.base < x.base + x.size)

/-- R164: `AddDevice(base, dev, guards)`. -/
def addDevice (c : Config) (bus : List BusEntry) (base : Nat) (d : Device) (gs : List Guard) :
    Except ConfigError (List BusEntry) :=
  match deviceSize c d with
  | none => .error .noSuchDevice
  | some size =>
    if !gs.all (guardExists c) then .error .noSuchDevice
    else if size = 0 then .error .emptyDevice
    else if 2 ^ 64 < base + size then .error .addressOverflow
    else if bus.any (entriesOverlap ⟨base, size, d, gs⟩) then .error .overlap
    else .ok (insertEntry ⟨base, size, d, gs⟩ bus)

/-- R361: the device map's entries, inserted one after another. -/
def addDevices (c : Config) (bus : List BusEntry) : List MapEntry → Except ConfigError (List BusEntry)
  | [] => .ok bus
  | e :: es =>
    match addDevice c bus e.base.toNat e.device e.guards with
    | .ok bus' => addDevices c bus' es
    | .error x => .error x

/-! ## The state after construction (R49, R194, R263, R276, R282, R303) -/

/-- R263: every array at its full size, every entry 0. -/
def initialPlic (c : Config) (A : Nat) : Plic where
  priority := List.replicate c.numSources 0#3
  pending := List.replicate c.words 0#32
  claimed := List.replicate c.words 0#32
  enable := List.replicate (A * c.words) 0#32
  threshold := List.replicate A 0#32
  level := List.replicate c.numSources false

/-- R282: `trunc_32((1 << FILTER_WID_INIT) | FILTER_MASK_INIT)`. -/
def initialMask (f : FilterParams) : Word32 := BitVec.ofNat 32 (1 <<< f.widInit ||| f.maskInit)

/-- R49, with the given bus map and contexts, in a machine whose own fields are those of `s`. -/
def initialState (c : Config) (bus : List BusEntry) (contexts : List Context) (s : State) : State where
  phase := .configuring
  cfg := c
  bus := bus
  mtime := 0#64
  mtimecmp := c.mtimecmpReset
  mip := c.mipReset
  plic := initialPlic c contexts.length
  contexts := contexts
  markers := c.markerWidInit.map fun w => ⟨BitVec.ofNat 32 w, 0#32⟩
  filterMask := c.filters.map initialMask
  pmps := c.pmpBlocks.map fun n => List.replicate n ⟨0#32, 0#64, 0#64, 0#32⟩
  mem := []
  clockUs := c.anchorUs
  clockDraws := s.clockDraws
  extLog := s.extLog
  queue := s.queue
  out := .none

/-- R360: the checks, then the state. -/
def construct (c : Config) (s : State) : Except ConfigError State :=
  match parseHartConfig c.hartConfig with
  | .error e => .error e
  | .ok contexts =>
    match parameterError c contexts.length with
    | some e => .error e
    | none =>
      match addDevices c [] c.deviceMap with
      | .error e => .error e
      | .ok bus => .ok (initialState c bus contexts s)

/-- SYS.CONSTRUCT (R360): there is no later reset. A configuration error ends the process (R322). -/
def execSysConstruct (c : Config) (s : State) : Out :=
  match s.phase with
  | .unbuilt =>
    match construct c s with
    | .ok t => .next t
    | .error e => .fault (.configuration e)
  | .configuring => .refused .alreadyConstructed
  | .running => .refused .alreadyConstructed

/-- BUS.ADD_DEVICE (R164): construction only. A configuration error ends the process (R322). -/
def execBusAddDevice (base : Word64) (d : Device) (gs : List Guard) (s : State) : Out :=
  match s.phase with
  | .configuring =>
    match addDevice s.cfg s.bus base.toNat d gs with
    | .ok bus => .next ((s.setBus bus).setOut .none)
    | .error e => .fault (.configuration e)
  | .unbuilt => .refused .notConstructed
  | .running => .refused .constructionOver

end Sys2Proof.Machine
end

