-- ==== Sys2Proof/Machine/Dispatch.lean ====
section
/-! DEFINITION. One arm per constructor of Instr: the call of its meaning. -/

namespace Sys2Proof.Machine

def exec (i : Instr) (s : State) : Host.Outcome State Fault Refusal :=
  match i with
  | .busLoad hart addr len kind => Sys2Proof.Machine.execBusLoad hart addr len kind s
  | .busStore hart addr data => Sys2Proof.Machine.execBusStore hart addr data s
  | .busAddDevice base device guards => Sys2Proof.Machine.execBusAddDevice base device guards s
  | .sysConstruct params => Sys2Proof.Machine.execSysConstruct params s
  | .clintLdMsip r => Sys2Proof.Machine.execClintLdMsip r s
  | .clintStMsip r => Sys2Proof.Machine.execClintStMsip r s
  | .clintLdMtimecmp r => Sys2Proof.Machine.execClintLdMtimecmp r s
  | .clintStMtimecmp r => Sys2Proof.Machine.execClintStMtimecmp r s
  | .clintLdMtime r => Sys2Proof.Machine.execClintLdMtime r s
  | .clintStMtime r => Sys2Proof.Machine.execClintStMtime r s
  | .clintLdReserved r => Sys2Proof.Machine.execClintLdReserved r s
  | .clintStReserved r => Sys2Proof.Machine.execClintStReserved r s
  | .clintTick inc => Sys2Proof.Machine.execClintTick inc s
  | .plicMisaligned a => Sys2Proof.Machine.execPlicMisaligned a s
  | .plicLdPriority r => Sys2Proof.Machine.execPlicLdPriority r s
  | .plicStPriority r => Sys2Proof.Machine.execPlicStPriority r s
  | .plicLdPending r => Sys2Proof.Machine.execPlicLdPending r s
  | .plicStPending r => Sys2Proof.Machine.execPlicStPending r s
  | .plicLdEnable r => Sys2Proof.Machine.execPlicLdEnable r s
  | .plicStEnable r => Sys2Proof.Machine.execPlicStEnable r s
  | .plicLdThreshold r => Sys2Proof.Machine.execPlicLdThreshold r s
  | .plicStThreshold r => Sys2Proof.Machine.execPlicStThreshold r s
  | .plicLdClaim r => Sys2Proof.Machine.execPlicLdClaim r s
  | .plicStComplete r => Sys2Proof.Machine.execPlicStComplete r s
  | .plicLdReserved r => Sys2Proof.Machine.execPlicLdReserved r s
  | .plicStReserved r => Sys2Proof.Machine.execPlicStReserved r s
  | .plicSetPending irq level => Sys2Proof.Machine.execPlicSetPending irq level s
  | .wgUntrusted g a => Sys2Proof.Machine.execWgUntrusted g a s
  | .wgCrossing g a => Sys2Proof.Machine.execWgCrossing g a s
  | .wgmLdWid m r => Sys2Proof.Machine.execWgmLdWid m r s
  | .wgmStWid m r => Sys2Proof.Machine.execWgmStWid m r s
  | .wgmLdLock m r => Sys2Proof.Machine.execWgmLdLock m r s
  | .wgmStLock m r => Sys2Proof.Machine.execWgmStLock m r s
  | .wgfLdWid f r => Sys2Proof.Machine.execWgfLdWid f r s
  | .wgfStWid f r => Sys2Proof.Machine.execWgfStWid f r s
  | .wgfGate f hart addr len kind => Sys2Proof.Machine.execWgfGate f hart addr len kind s
  | .wgpLdPerm p r => Sys2Proof.Machine.execWgpLdPerm p r s
  | .wgpStPerm p r => Sys2Proof.Machine.execWgpStPerm p r s
  | .wgpLdBase p r => Sys2Proof.Machine.execWgpLdBase p r s
  | .wgpStBase p r => Sys2Proof.Machine.execWgpStBase p r s
  | .wgpLdCount p r => Sys2Proof.Machine.execWgpLdCount p r s
  | .wgpStCount p r => Sys2Proof.Machine.execWgpStCount p r s
  | .wgpLdLock p r => Sys2Proof.Machine.execWgpLdLock p r s
  | .wgpStLock p r => Sys2Proof.Machine.execWgpStLock p r s
  | .wgpGate p hart addr len kind => Sys2Proof.Machine.execWgpGate p hart addr len kind s

end Sys2Proof.Machine
end

