-- ==== Sys2Proof/Machine/Step.lean ====
section
/-! DEFINITION. One step: the next record of the host's queue is fetched and served (20_memory.md R100). -/

namespace Sys2Proof.Machine

/-- One step. With nothing in the queue the block, which is passive (R32), stays as it is. -/
def step (s : State) : Host.Outcome State Fault Refusal :=
  match s.fetch with
  | .idle => .next s
  | .malformed => .refused .malformedRecord
  | .notConstructed => .refused .notConstructed
  | .run i t => exec i t
  | .atomic k h addr t => serveAtomic k h addr t
  | .fence t => serveFence t

/-- `s` with the record whose bits are `w` at the head of the queue, where `step` fetches it (log entry 3). -/
def State.withFetchWord (s : State) (nbits w : Nat) : State := s.setQueue (tableRecord nbits w :: s.queue)

end Sys2Proof.Machine
end

