-- ==== Sys2Proof/Safety.lean ====
section
/-! DEFINITION. What a safe run is: a step that answers a next state, and the invariants a constructed block keeps
(10_state.md R35, R39, R40, R43, R50, R51); and the terms the statements about the block are written in. -/

namespace Sys2Proof.Machine

/-- The machine goes on: no fault, no refusal. -/
def Completes (o : Out) : Prop := ∃ t, o = .next t

/-! ## The invariants -/

/-- Every array has the size the parameters give it (R37, R39, R43 to R45). -/
abbrev State.Shape (s : State) : Prop :=
  s.mtimecmp.length = s.cfg.nHarts ∧ s.mip.length = s.cfg.nHarts ∧ s.markers.length = s.cfg.nHarts
    ∧ s.plic.priority.length = s.cfg.numSources ∧ s.plic.level.length = s.cfg.numSources
    ∧ s.plic.pending.length = s.cfg.words ∧ s.plic.claimed.length = s.cfg.words
    ∧ s.plic.enable.length = s.contexts.length * s.cfg.words ∧ s.plic.threshold.length = s.contexts.length
    ∧ s.filterMask.length = s.cfg.filters.length ∧ s.pmps.map List.length = s.cfg.pmpBlocks

/-- Pending and claimed bits of id 0 and of ids above S are 0 (R39). -/
abbrev State.PlicBits (s : State) : Prop :=
  ∀ i < 32 * s.cfg.words,
    (bitAt s.plic.pending i = true ∨ bitAt s.plic.claimed i = true) → 1 ≤ i ∧ i ≤ s.cfg.numSources

/-- A threshold is at most `NUM_PRIORITIES` (R39). -/
abbrev State.Thresholds (s : State) : Prop := ∀ n ∈ s.plic.threshold.map BitVec.toNat, n ≤ s.cfg.numPriorities

/-- A marker's world is at most `WID_TRUSTED` (R43). -/
abbrev State.Worlds (s : State) : Prop := ∀ x ∈ s.markers, x.wid.toNat ≤ s.cfg.widTrusted

/-- The map is ordered, no two devices overlap, and each entry is a constructed device's, inside the address space
(R35, R164). -/
abbrev State.BusMap (s : State) : Prop :=
  s.bus.Pairwise (fun x y => x.base + x.size ≤ y.base)
    ∧ ∀ e ∈ s.bus, e.size ≠ 0 ∧ e.base + e.size ≤ 2 ^ 64 ∧ deviceSize s.cfg e.device = some e.size
        ∧ e.guards.all (guardExists s.cfg) = true

/-- Contexts are numbered in order, no two have the same hart and mode, and each hart is there (R40, D30). -/
abbrev State.ContextTable (s : State) : Prop :=
  s.contexts.map (·.addrid) = List.range s.contexts.length
    ∧ s.contexts.Pairwise (fun x y => ¬(x.hartid = y.hartid ∧ x.mode = y.mode))
    ∧ ∀ c ∈ s.contexts, c.hartid < s.cfg.nHarts

/-- The configuration is one that construction accepts (R51, R322). -/
abbrev State.Parameters (s : State) : Prop := parameterError s.cfg s.contexts.length = none

/-- The invariant of a constructed block. -/
abbrev State.Inv (s : State) : Prop :=
  s.phase ≠ .unbuilt ∧ s.Parameters ∧ s.ContextTable ∧ s.Shape ∧ s.PlicBits ∧ s.Thresholds ∧ s.Worlds ∧ s.BusMap
    ∧ Memory.wf s.mem

/-! ## Bytes of a register -/

/-- Byte `k` of a register, byte 0 the least significant (R14, R80). -/
def byteOf {w : Nat} (v : BitVec w) (k : Nat) : Byte := v.extractLsb' (8 * k) 8

/-- `b` is `len` bytes of a register, from its byte `k` on (R15, R80, R271). -/
def IsWindow {w : Nat} (v : BitVec w) (k len : Nat) (b : Bytes) : Prop :=
  b.length = len ∧ ∀ j < len, b.getD j 0#8 = byteOf v (k + j)

/-- `new` is `old` with its bytes from `k` on replaced by `b` (R15, R80, R271). -/
def IsPatched {w : Nat} (old : BitVec w) (k : Nat) (b : Bytes) (new : BitVec w) : Prop :=
  ∀ j < w / 8, byteOf new j = if k ≤ j ∧ j < k + b.length then b.getD (j - k) 0#8 else byteOf old j

/-! ## The `mip` bits -/

/-- R50: MTIP of every hart says whether the time has reached the hart's compare value. -/
abbrev State.MtipRight (s : State) : Prop :=
  ∀ i < s.cfg.nHarts, (s.mipOf i).mtip = decide (s.timecmp i ≤ s.mtime)

/-- R230: context `a` could claim IRQ `i` now. -/
def Eligible (s : State) (a i : Nat) : Prop :=
  1 ≤ i ∧ i ≤ s.cfg.numSources ∧ bitAt s.plic.pending i = true
    ∧ (s.enableWord a (i / 32)).getLsbD (i % 32) = true ∧ bitAt s.plic.claimed i = false
    ∧ (s.plic.thresh a).toNat < (s.plic.prio i).toNat

/-- R231: `i` is the eligible IRQ of greatest priority, ties to the lowest id, or 0 when none is eligible. -/
def IsBest (s : State) (a i : Nat) : Prop :=
  (i = 0 ∧ ∀ j, ¬Eligible s a j) ∨
    (Eligible s a i ∧ ∀ j, Eligible s a j →
      (s.plic.prio j).toNat < (s.plic.prio i).toNat ∨ (s.plic.prio j = s.plic.prio i ∧ i ≤ j))

/-- R234, R238: MEIP (SEIP) of a hart with a context of mode M (S) says whether that context has an eligible IRQ. -/
def State.LinesRight (s : State) : Prop :=
  ∀ c ∈ s.contexts,
    (c.mode = .m → ((s.mipOf c.hartid).meip = true ↔ ∃ i, Eligible s c.addrid i))
      ∧ (c.mode = .s → ((s.mipOf c.hartid).seip = true ↔ ∃ i, Eligible s c.addrid i))

/-! ## Effects: what may differ after an operation; everything else of the state is as it was -/

/-- R180, R182: `now` is the time a CLINT operation works with, and `clock` the wall clock's reading behind it. -/
def SampledTime (s : State) (clock : Nat) (now : Word64) : Prop :=
  if s.cfg.realTime then
    s.clockUs ≤ clock ∧ s.cfg.anchorUs ≤ clock
      ∧ now.toNat = (clock - s.cfg.anchorUs) * s.cfg.freqHz / 1000000 % 2 ^ 64
  else clock = s.clockUs ∧ now = s.mtime

/-- What a CLINT access or tick may change (R182): time, compare values, MSIP and MTIP, the clock's own fields, `out`;
and MTIP is right after it. -/
def ClintEffect (s t : State) : Prop :=
  t = { s with
        mtime := t.mtime, mtimecmp := t.mtimecmp, mip := t.mip, clockUs := t.clockUs, clockDraws := t.clockDraws,
        out := t.out }
    ∧ t.mtimecmp.length = s.mtimecmp.length ∧ t.mip.length = s.mip.length
    ∧ (∀ h, (t.mipOf h).meip = (s.mipOf h).meip ∧ (t.mipOf h).seip = (s.mipOf h).seip)
    ∧ t.MtipRight

/-- No MSIP bit differs. -/
def SameMsip (s t : State) : Prop := ∀ h, (t.mipOf h).msip = (s.mipOf h).msip

/-- What a PLIC operation that ends with Update may change (R234): the PLIC's arrays, MEIP and SEIP of harts with an M
or S context, `out`; and the lines are right after it. -/
def PlicEffect (s t : State) : Prop :=
  t = { s with plic := t.plic, mip := t.mip, out := t.out }
    ∧ t.mip.length = s.mip.length
    ∧ (∀ h, (t.mipOf h).msip = (s.mipOf h).msip ∧ (t.mipOf h).mtip = (s.mipOf h).mtip)
    ∧ (∀ h, (∀ c ∈ s.contexts, ¬(c.hartid = h ∧ c.mode = .m)) → (t.mipOf h).meip = (s.mipOf h).meip)
    ∧ (∀ h, (∀ c ∈ s.contexts, ¬(c.hartid = h ∧ c.mode = .s)) → (t.mipOf h).seip = (s.mipOf h).seip)
    ∧ t.LinesRight

/-! ## Who issues what, where -/

/-- R270: hart `h` is in the trusted world. -/
def InTrustedWorld (s : State) (h : Nat) : Prop := ∃ x, s.markers[h]? = some x ∧ x.wid.toNat = s.cfg.widTrusted

/-- The issuing hart of an access (R36). -/
def accessHart : Access → Nat
  | .load r => r.hart
  | .store r => r.hart

/-- The number of bytes of an access. -/
def accessLen : Access → Nat
  | .load r => r.len
  | .store r => r.data.length

/-- What a refused access at a device's port leaves in `out` (R320; log entry 11). -/
def refusedOut (s : State) (d : Device) : Access → Output
  | .load r => .accessFault ⟨r.hart, faultKind r.kind, s.portAddr d r.off⟩
  | .store r => .accessFault ⟨r.hart, .store, s.portAddr d r.off⟩

/-- The device and the access of a device's row (R122); no other instruction has one. -/
def portAccess : Instr → Option (Device × Access)
  | .busLoad _ _ _ _ => none
  | .busStore _ _ _ => none
  | .busAddDevice _ _ _ => none
  | .sysConstruct _ => none
  | .clintLdMsip r => some (.clint, .load r)
  | .clintStMsip r => some (.clint, .store r)
  | .clintLdMtimecmp r => some (.clint, .load r)
  | .clintStMtimecmp r => some (.clint, .store r)
  | .clintLdMtime r => some (.clint, .load r)
  | .clintStMtime r => some (.clint, .store r)
  | .clintLdReserved r => some (.clint, .load r)
  | .clintStReserved r => some (.clint, .store r)
  | .clintTick _ => none
  | .plicMisaligned a => some (.plic, a)
  | .plicLdPriority r => some (.plic, .load r)
  | .plicStPriority r => some (.plic, .store r)
  | .plicLdPending r => some (.plic, .load r)
  | .plicStPending r => some (.plic, .store r)
  | .plicLdEnable r => some (.plic, .load r)
  | .plicStEnable r => some (.plic, .store r)
  | .plicLdThreshold r => some (.plic, .load r)
  | .plicStThreshold r => some (.plic, .store r)
  | .plicLdClaim r => some (.plic, .load r)
  | .plicStComplete r => some (.plic, .store r)
  | .plicLdReserved r => some (.plic, .load r)
  | .plicStReserved r => some (.plic, .store r)
  | .plicSetPending _ _ => none
  | .wgUntrusted g a => some (guardDevice g, a)
  | .wgCrossing g a => some (guardDevice g, a)
  | .wgmLdWid m r => some (.marker m, .load r)
  | .wgmStWid m r => some (.marker m, .store r)
  | .wgmLdLock m r => some (.marker m, .load r)
  | .wgmStLock m r => some (.marker m, .store r)
  | .wgfLdWid f r => some (.filter f, .load r)
  | .wgfStWid f r => some (.filter f, .store r)
  | .wgfGate _ _ _ _ _ => none
  | .wgpLdPerm p r => some (.pmp p, .load r)
  | .wgpStPerm p r => some (.pmp p, .store r)
  | .wgpLdBase p r => some (.pmp p, .load r)
  | .wgpStBase p r => some (.pmp p, .store r)
  | .wgpLdCount p r => some (.pmp p, .load r)
  | .wgpStCount p r => some (.pmp p, .store r)
  | .wgpLdLock p r => some (.pmp p, .load r)
  | .wgpStLock p r => some (.pmp p, .store r)
  | .wgpGate _ _ _ _ _ => none

/-- Access `a` reaches device `d`'s port: by a row of the device, or by a load or store on the bus inside an entry of the
map that is the device's (R122, R160, R161). -/
def Reaches (s : State) (i : Instr) (d : Device) (a : Access) : Prop :=
  portAccess i = some (d, a)
    ∨ (∃ h addr len k, ∃ e ∈ s.bus, i = .busLoad h addr len k ∧ e.device = d ∧ e.base ≤ addr.toNat
        ∧ addr.toNat + len ≤ e.base + e.size ∧ a = .load ⟨h, k, addr.toNat - e.base, len⟩)
    ∨ (∃ h addr b, ∃ e ∈ s.bus, i = .busStore h addr b ∧ e.device = d ∧ e.base ≤ addr.toNat
        ∧ addr.toNat + b.length ≤ e.base + e.size ∧ a = .store ⟨h, addr.toNat - e.base, b⟩)

/-- The hart that issues a load or a store, through the bus or at a port (R36). -/
def issuer : Instr → Option Nat
  | .busLoad h _ _ _ => some h
  | .busStore h _ _ => some h
  | i => (portAccess i).map fun p => accessHart p.2

/-- The bytes a store carries. -/
def storedBytes : Instr → Option Bytes
  | .busStore _ _ b => some b
  | i =>
    match portAccess i with
    | some (_, .store r) => some r.data
    | _ => none

/-- The instruction is a 4-byte store of `v`: the only way to write `v` to a claim / complete register (R220, R233). -/
def StoresWord (i : Instr) (v : Nat) : Prop := ∃ b, storedBytes i = some b ∧ b.length = 4 ∧ leValue b = v

/-- Instructions one after another, as the total order of transactions has them (R100). -/
def execAll : List Instr → State → Out
  | [], s => .next s
  | i :: is, s =>
    match exec i s with
    | .next t => execAll is t
    | .fault e => .fault e
    | .refused e => .refused e

/-! ## Construction -/

/-- The characters of `HART_CONFIG` that are no comma, each with the number of commas before it (R262). -/
def hartChars : Nat → List Char → List (Nat × Char)
  | _, [] => []
  | h, c :: cs => if c = ',' then hartChars (h + 1) cs else (h, c) :: hartChars h cs

/-- R164 of a whole device map: each device was constructed, is not empty and lies in the address space, each guard was
constructed, and no two entries overlap. -/
def ValidMap (c : Config) : Prop :=
  (∀ e ∈ c.deviceMap,
      (deviceSize c e.device).getD 0 ≠ 0 ∧ e.base.toNat + (deviceSize c e.device).getD 0 ≤ 2 ^ 64
        ∧ e.guards.all (guardExists c) = true)
    ∧ c.deviceMap.Pairwise fun x y =>
        x.base.toNat + (deviceSize c x.device).getD 0 ≤ y.base.toNat
          ∨ y.base.toNat + (deviceSize c y.device).getD 0 ≤ x.base.toNat

end Sys2Proof.Machine
end

