-- ==== Sys2Proof/Certificates/Slice0/Obligations.lean ====
section
/-! DEFINITION. The statements about the model. Each docstring names the rules or sections of spec/ it comes from; where
a clause rests on a decision or inference the spec marks as its own, or on the model's choice, the docstring says so.
Terms are those of Sys2Proof/Safety.lean. -/

open Sys2Proof Sys2Proof.Machine

/-! ## Records -/

/-- A transaction's record gives back the transaction, whatever words follow it. The record's layout is the model's
choice (log entry 1); its fields are those of 30_encoding.md section 1. -/
def Obligations.DecodeInvertsEncode : Prop :=
  ∀ (i : Instr) (rest : Words), i.wf = true → decode (encode i ++ rest) = some (i, rest)

/-- The bytes of anything the host presents, with any number of zero words after them, give it back (log entry 1). -/
def Obligations.RecordsRoundTrip : Prop :=
  ∀ (r : Request) (n : Nat), r.wf = true →
    decodeRecord (encodeRecord r ++ bytesOfWords (List.replicate n 0#64)) = some r

/-- A few records written out word by word (log entry 1): `LD h1, 0x0200BFF8, 8`, `ST h0, 0x02000000, 4, 1`,
`TICK 0x100`, `IRQ 2, 1`, a store of 0x20 to a PMP's first `perm`, and a marker `wid` load. -/
def Obligations.SampleRecordsDecode : Prop :=
  decode [0x0200BFF8#64, 0#64, 1#64, 0#64, 8#64] = some (.busLoad 1 0x0200BFF8#64 8 .load, [])
    ∧ decode [0x02000000#64, 1#64, 0#64, 4#64, 1#64, 0#64, 0#64, 0#64]
        = some (.busStore 0 0x02000000#64 [1#8, 0#8, 0#8, 0#8], [])
    ∧ decode [0x100#64, 12#64] = some (.clintTick 0x100#64, [])
    ∧ decode [2#64, 26#64, 1#64] = some (.plicSetPending 2 true, [])
    ∧ decode [0#64, 37#64, 0#64, 0#64, 1#64, 0x20#64] = some (.wgpStPerm 0 ⟨0, 0, [0x20#8]⟩, [])
    ∧ decode [0#64, 29#64, 1#64, 0#64, 0#64, 4#64] = some (.wgmLdWid 1 ⟨0, .load, 0, 4⟩, [])

/-- R14: `le_bytes(v, n)` has n bytes and the value of v reduced to them; `le_value` weighs byte k by 2^(8k). -/
def Obligations.LittleEndianBytes : Prop :=
  (∀ n v : Nat, (leBytes n v).length = n ∧ leValue (leBytes n v) = v % 2 ^ (8 * n))
    ∧ (∀ b : Bytes, leBytes b.length (leValue b) = b)
    ∧ (∀ (b : Bytes) (x : Byte), leValue (b ++ [x]) = leValue b + x.toNat * 2 ^ (8 * b.length))

/-! ## Decode of an offset to a register -/

/-- R123: an access belongs to the family whose byte range holds it; the three ranges are disjoint, and an access in
none of them is reserved. -/
def Obligations.ClintDecode : Prop :=
  ∀ n off len : Nat, n ≤ 4095 → 1 ≤ len →
    (clintFamily n off len = some .msip ↔ off + len ≤ 4 * n)
      ∧ (clintFamily n off len = some .mtimecmp ↔ 0x4000 ≤ off ∧ off + len ≤ 0x4000 + 8 * n)
      ∧ (clintFamily n off len = some .mtime ↔ 0xBFF8 ≤ off ∧ off + len ≤ 0xC000)
      ∧ (clintFamily n off len = none ↔
          ¬off + len ≤ 4 * n ∧ ¬(0x4000 ≤ off ∧ off + len ≤ 0x4000 + 8 * n) ∧ ¬(0xBFF8 ≤ off ∧ off + len ≤ 0xC000))

/-- R124: an access of another length than 4, or at no multiple of 4, selects nothing; an aligned one selects the row
whose condition its offset meets, and is reserved when it meets none. -/
def Obligations.PlicDecode : Prop :=
  ∀ (s : State) (off len : Nat), plicLayoutOk s.cfg s.contexts.length = true →
    (s.plicSelects off len = none ↔ ¬(len = 4 ∧ off % 4 = 0))
      ∧ (len = 4 → off % 4 = 0 →
          (∀ i, s.plicSelects off len = some (.priority i) ↔
              1 ≤ i ∧ i ≤ s.cfg.numSources ∧ off = s.cfg.priorityBase + 4 * i)
            ∧ (∀ w, s.plicSelects off len = some (.pending w) ↔ w < s.cfg.words ∧ off = s.cfg.pendingBase + 4 * w)
            ∧ (∀ a w, s.plicSelects off len = some (.enable a w) ↔
                a < s.contexts.length ∧ w < s.cfg.words
                  ∧ off = s.cfg.enableBase + a * s.cfg.enableStride + 4 * w)
            ∧ (∀ a, s.plicSelects off len = some (.threshold a) ↔
                a < s.contexts.length ∧ off = s.cfg.contextBase + a * s.cfg.contextStride)
            ∧ (∀ a, s.plicSelects off len = some (.claim a) ↔
                a < s.contexts.length ∧ off = s.cfg.contextBase + a * s.cfg.contextStride + 4)
            ∧ (s.plicSelects off len = some .reserved ↔
                (∀ i, ¬(1 ≤ i ∧ i ≤ s.cfg.numSources ∧ off = s.cfg.priorityBase + 4 * i))
                  ∧ (∀ w, ¬(w < s.cfg.words ∧ off = s.cfg.pendingBase + 4 * w))
                  ∧ (∀ a w, ¬(a < s.contexts.length ∧ w < s.cfg.words
                      ∧ off = s.cfg.enableBase + a * s.cfg.enableStride + 4 * w))
                  ∧ (∀ a, ¬(a < s.contexts.length ∧ off = s.cfg.contextBase + a * s.cfg.contextStride))
                  ∧ (∀ a, ¬(a < s.contexts.length ∧ off = s.cfg.contextBase + a * s.cfg.contextStride + 4))))

/-- 30_encoding.md section 5: the marker's two registers, the filter's one, and the four fields of a PMP block, each by
the byte range that holds the whole access; an access that crosses a boundary selects nothing (the spec's decision
D32). -/
def Obligations.GuardDecode : Prop :=
  ∀ off len : Nat, 1 ≤ len →
    (markerRegister off len = some .wid ↔ off + len ≤ 4)
      ∧ (markerRegister off len = some .lock ↔ 4 ≤ off ∧ off + len ≤ 8)
      ∧ (filterRegister off len = true ↔ off + len ≤ 4)
      ∧ (∀ k, pmpField off len = some (k, .perm) ↔ 0x18 * k ≤ off ∧ off + len ≤ 0x18 * k + 0x04)
      ∧ (∀ k, pmpField off len = some (k, .basePage) ↔ 0x18 * k + 0x04 ≤ off ∧ off + len ≤ 0x18 * k + 0x0C)
      ∧ (∀ k, pmpField off len = some (k, .pageCount) ↔ 0x18 * k + 0x0C ≤ off ∧ off + len ≤ 0x18 * k + 0x14)
      ∧ (∀ k, pmpField off len = some (k, .lock) ↔ 0x18 * k + 0x14 ≤ off ∧ off + len ≤ 0x18 * k + 0x18)

/-- An access at a device's port does what its offset selects, whichever of the device's rows it is written as: the
model's reading of 30_encoding.md section 2 (log entry 11). -/
def Obligations.RowsDecodeAtThePort : Prop :=
  ∀ (i j : Instr) (s : State), portAccess i ≠ none → portAccess i = portAccess j → exec i s = exec j s

/-! ## CLINT -/

/-- 41_clint.md section 2, CLINT.LD_MSIP: the load answers the family's bytes; byte 0 of each word is MSIP of its
hart, every other byte and bit reads 0 (the spec's decision D9); the frame of section 1 runs (a sampled time by the
spec's decision D11 and a clock reading of log entry 8) and no MSIP bit changes. -/
def Obligations.ClintLoadMsip : Prop :=
  ∀ (s : State) (r : LoadReq), s.Inv → 1 ≤ r.len → r.off + r.len ≤ 4 * s.cfg.nHarts →
    ∃ t b, exec (.clintLdMsip r) s = .next t ∧ t.out = .loaded b ∧ b.length = r.len
      ∧ (∀ j < r.len, b.getD j 0#8 =
          if (r.off + j) % 4 = 0 ∧ (s.mipOf ((r.off + j) / 4)).msip = true then 1#8 else 0#8)
      ∧ SampledTime s t.clockUs t.mtime ∧ t.mtimecmp = s.mtimecmp ∧ SameMsip s t ∧ ClintEffect s t

/-- 41_clint.md section 2, CLINT.ST_MSIP: every hart whose byte 0 the store covers gets bit 0 of that byte (the spec's
decision D10); no other MSIP bit changes; the frame of section 1 runs (a sampled time by the spec's decision D11 and a
clock reading of log entry 8). -/
def Obligations.ClintStoreMsip : Prop :=
  ∀ (s : State) (r : StoreReq), s.Inv → 1 ≤ r.data.length → r.off + r.data.length ≤ 4 * s.cfg.nHarts →
    ∃ t, exec (.clintStMsip r) s = .next t ∧ t.out = .stored
      ∧ (∀ h, (t.mipOf h).msip =
          if r.off ≤ 4 * h ∧ 4 * h < r.off + r.data.length then (r.data.getD (4 * h - r.off) 0#8).getLsbD 0
          else (s.mipOf h).msip)
      ∧ SampledTime s t.clockUs t.mtime ∧ t.mtimecmp = s.mtimecmp ∧ ClintEffect s t

/-- 41_clint.md sections 3 and 4, the loads: a load of the compare registers answers the family's bytes, the eight
bytes of each register in turn; a load of `mtime` answers bytes of it, in real-time mode of the freshly sampled one (a
sampled time by the spec's decision D11 and a clock reading of log entry 8); the frame of section 1 runs. -/
def Obligations.ClintTimeLoads : Prop :=
  (∀ (s : State) (r : LoadReq), s.Inv → 1 ≤ r.len → 0x4000 ≤ r.off → r.off + r.len ≤ 0x4000 + 8 * s.cfg.nHarts →
    ∃ t b, exec (.clintLdMtimecmp r) s = .next t ∧ t.out = .loaded b ∧ b.length = r.len
      ∧ (∀ j < r.len, b.getD j 0#8 = byteOf (s.timecmp ((r.off - 0x4000 + j) / 8)) ((r.off - 0x4000 + j) % 8))
      ∧ SampledTime s t.clockUs t.mtime ∧ t.mtimecmp = s.mtimecmp ∧ SameMsip s t ∧ ClintEffect s t)
  ∧ (∀ (s : State) (r : LoadReq), s.Inv → 1 ≤ r.len → 0xBFF8 ≤ r.off → r.off + r.len ≤ 0xC000 →
    ∃ t b, exec (.clintLdMtime r) s = .next t ∧ t.out = .loaded b ∧ IsWindow t.mtime (r.off - 0xBFF8) r.len b
      ∧ SampledTime s t.clockUs t.mtime ∧ t.mtimecmp = s.mtimecmp ∧ SameMsip s t ∧ ClintEffect s t)

/-- 41_clint.md sections 3 and 4, the stores: a store replaces the bytes it covers of the compare registers laid out
in turn, or of `mtime`, and no other, and MTIP is recomputed against the written value; the frame of section 1 runs (a
sampled time by the spec's decision D11 and a clock reading of log entry 8). -/
def Obligations.ClintTimeStores : Prop :=
  (∀ (s : State) (r : StoreReq), s.Inv → 1 ≤ r.data.length → 0x4000 ≤ r.off →
    r.off + r.data.length ≤ 0x4000 + 8 * s.cfg.nHarts →
    ∃ t, exec (.clintStMtimecmp r) s = .next t ∧ t.out = .stored
      ∧ (∀ i < s.cfg.nHarts, ∀ j < 8, byteOf (t.timecmp i) j =
          if r.off - 0x4000 ≤ 8 * i + j ∧ 8 * i + j < r.off - 0x4000 + r.data.length then
            r.data.getD (8 * i + j - (r.off - 0x4000)) 0#8
          else byteOf (s.timecmp i) j)
      ∧ SampledTime s t.clockUs t.mtime ∧ SameMsip s t ∧ ClintEffect s t)
  ∧ (∀ (s : State) (r : StoreReq), s.Inv → 1 ≤ r.data.length → 0xBFF8 ≤ r.off → r.off + r.data.length ≤ 0xC000 →
    ∃ t now, exec (.clintStMtime r) s = .next t ∧ t.out = .stored ∧ SampledTime s t.clockUs now
      ∧ IsPatched now (r.off - 0xBFF8) r.data t.mtime
      ∧ t.mtimecmp = s.mtimecmp ∧ SameMsip s t ∧ ClintEffect s t)

/-- 41_clint.md section 5, CLINT.LD_RESERVED and CLINT.ST_RESERVED: an access inside the device that lies in no family
is refused (for stores the spec's decision D8; the fault address is that of log entry 11 with the spec's decision
D43), and the frame runs all the same (its decision D13; a sampled time by the spec's decision D11 and a clock reading
of log entry 8). -/
def Obligations.ClintReservedRefuses : Prop :=
  (∀ (s : State) (r : LoadReq), s.Inv → 1 ≤ r.len → r.off + r.len ≤ 0xC000 →
    ¬r.off + r.len ≤ 4 * s.cfg.nHarts → ¬(0x4000 ≤ r.off ∧ r.off + r.len ≤ 0x4000 + 8 * s.cfg.nHarts) →
    ¬0xBFF8 ≤ r.off →
    ∃ t, exec (.clintLdReserved r) s = .next t ∧ t.out = refusedOut s .clint (.load r)
      ∧ SampledTime s t.clockUs t.mtime ∧ t.mtimecmp = s.mtimecmp ∧ SameMsip s t ∧ ClintEffect s t)
  ∧ (∀ (s : State) (r : StoreReq), s.Inv → 1 ≤ r.data.length → r.off + r.data.length ≤ 0xC000 →
    ¬r.off + r.data.length ≤ 4 * s.cfg.nHarts →
    ¬(0x4000 ≤ r.off ∧ r.off + r.data.length ≤ 0x4000 + 8 * s.cfg.nHarts) → ¬0xBFF8 ≤ r.off →
    ∃ t, exec (.clintStReserved r) s = .next t ∧ t.out = refusedOut s .clint (.store r)
      ∧ SampledTime s t.clockUs t.mtime ∧ t.mtimecmp = s.mtimecmp ∧ SameMsip s t ∧ ClintEffect s t)

/-- 41_clint.md section 6, CLINT.TICK: in virtual mode time advances by the increment, wrapping (the spec's decision
D17); in real-time mode it is sampled and the increment ignored (its decision D12; a sampled time by the spec's
decision D11 and a clock reading of log entry 8). -/
def Obligations.ClintTick : Prop :=
  ∀ (s : State) (inc : Word64), s.Inv →
    ∃ t now, exec (.clintTick inc) s = .next t ∧ t.out = .none ∧ SampledTime s t.clockUs now
      ∧ t.mtime.toNat = (if s.cfg.realTime then now.toNat else (s.mtime.toNat + inc.toNat) % 2 ^ 64)
      ∧ t.mtimecmp = s.mtimecmp ∧ SameMsip s t ∧ ClintEffect s t

/-- 41_clint.md section 7: of two loads of `mtime` in real-time mode, with any instruction between them, the second
value is not below the first, unless the derived value has reached 2^64 (a sampled time by the spec's decision D11 and
a clock reading of log entry 8). An inference the spec marks as its own. -/
def Obligations.RealTimeMonotone : Prop :=
  ∀ (s t u v : State) (i : Instr) (r q : LoadReq), s.Inv → s.cfg.realTime = true →
    r.off = 0xBFF8 → r.len = 8 → q.off = 0xBFF8 → q.len = 8 →
    exec (.clintLdMtime r) s = .next t → exec i t = .next u → exec (.clintLdMtime q) u = .next v →
    t.mtime.toNat ≤ v.mtime.toNat ∨ 2 ^ 64 ≤ (v.clockUs - v.cfg.anchorUs) * v.cfg.freqHz / 1000000

/-- 10_state.md section 9 (CLINT-MTIP, an inference the spec marks as its own): once MTIP is right it stays right over
every step of a constructed block. -/
def Obligations.MtipStaysRight : Prop :=
  ∀ s t : State, s.Inv → s.MtipRight → step s = .next t → t.MtipRight

/-- 10_state.md section 2: each `mip` bit has its one writer. MSIP of a hart changes only by a store at the CLINT that
covers byte 0 of the hart's word (the spec's decision D10), to bit 0 of that byte; MTIP only by an access at the CLINT
or a tick, to its right value; MEIP (SEIP) only of a hart with an M (S) context, by an access at the PLIC or a
set_pending, with the lines right after it (after a claim or a set_pending by the spec's decision D27, log entry 20).
A device's rows are accesses at its port (log entry 11). -/
def Obligations.MipBitsHaveOneWriter : Prop :=
  ∀ (s t : State) (i : Instr) (h : Nat), s.Inv → exec i s = .next t →
    ((t.mipOf h).msip ≠ (s.mipOf h).msip →
        ∃ r, Reaches s i .clint (.store r) ∧ r.off ≤ 4 * h ∧ 4 * h < r.off + r.data.length
          ∧ (t.mipOf h).msip = (r.data.getD (4 * h - r.off) 0#8).getLsbD 0)
      ∧ ((t.mipOf h).mtip ≠ (s.mipOf h).mtip →
          ((∃ inc, i = .clintTick inc) ∨ ∃ a, Reaches s i .clint a) ∧ t.MtipRight)
      ∧ ((t.mipOf h).meip ≠ (s.mipOf h).meip →
          ((∃ irq l, i = .plicSetPending irq l) ∨ ∃ a, Reaches s i .plic a)
            ∧ (∃ c ∈ s.contexts, c.hartid = h ∧ c.mode = .m) ∧ t.LinesRight)
      ∧ ((t.mipOf h).seip ≠ (s.mipOf h).seip →
          ((∃ irq l, i = .plicSetPending irq l) ∨ ∃ a, Reaches s i .plic a)
            ∧ (∃ c ∈ s.contexts, c.hartid = h ∧ c.mode = .s) ∧ t.LinesRight)

/-- 60_exceptions.md section 2: any hart sets MSIP of any hart by storing 1 to its word at the CLINT, and clears it by
storing 0, and changes no other hart's. An inference the spec marks as its own. -/
def Obligations.InterProcessorInterrupt : Prop :=
  ∀ (s : State) (e : BusEntry) (h j : Nat) (x : Bool), s.Inv → e ∈ s.bus → e.device = .clint → e.guards = [] →
    j < s.cfg.nHarts →
    ∃ t, exec (.busStore h (BitVec.ofNat 64 (e.base + 4 * j)) (leBytes 4 (if x then 1 else 0))) s = .next t
      ∧ t.out = .stored ∧ (∀ k, (t.mipOf k).msip = if k = j then x else (s.mipOf k).msip)
      ∧ t.mtimecmp = s.mtimecmp ∧ ClintEffect s t

/-! ## PLIC -/

/-- R231, with `Eligible` as in R230: the id the arbitration gives is the eligible one of greatest priority, ties to the lowest, or 0. -/
def Obligations.BestIsGreatestEligible : Prop :=
  ∀ (s : State) (a : Nat), IsBest s a (best s a)

/-- 42_plic.md section 1, Update: the lines are right after it, a hart with no context of a mode keeps that mode's bit,
and nothing but MEIP and SEIP changes. -/
def Obligations.UpdateDrivesTheLines : Prop :=
  ∀ s : State, s.Inv → PlicEffect s (update s) ∧ (update s).plic = s.plic

/-- 42_plic.md sections 3 to 6, the loads: a load of a priority, pending, enable or threshold register answers its
value in four little-endian bytes and changes nothing; pending bits of id 0 and of ids above S read 0, an enable word
reads back all its 32 bits (the spec's decision D24), and a threshold never reads above `NUM_PRIORITIES` (its decision
D23). -/
def Obligations.PlicRegisterLoads : Prop :=
  ∀ (s : State) (r : LoadReq), s.Inv → r.len = 4 →
    (∀ i, 1 ≤ i → i ≤ s.cfg.numSources → r.off = s.cfg.priorityBase + 4 * i →
        exec (.plicLdPriority r) s = .next { s with out := .loaded (leBytes 4 (s.plic.prio i).toNat) })
      ∧ (∀ w, w < s.cfg.words → r.off = s.cfg.pendingBase + 4 * w →
          ∃ x, s.plic.pending[w]? = some x
            ∧ (∀ j < 32, x.getLsbD j = true → 1 ≤ 32 * w + j ∧ 32 * w + j ≤ s.cfg.numSources)
            ∧ exec (.plicLdPending r) s = .next { s with out := .loaded (leBytes 4 x.toNat) })
      ∧ (∀ a w, a < s.contexts.length → w < s.cfg.words →
          r.off = s.cfg.enableBase + a * s.cfg.enableStride + 4 * w →
          ∃ x, s.plic.enable[a * s.cfg.words + w]? = some x
            ∧ exec (.plicLdEnable r) s = .next { s with out := .loaded (leBytes 4 x.toNat) })
      ∧ (∀ a, a < s.contexts.length → r.off = s.cfg.contextBase + a * s.cfg.contextStride →
          ∃ x, s.plic.threshold[a]? = some x ∧ x.toNat ≤ s.cfg.numPriorities
            ∧ exec (.plicLdThreshold r) s = .next { s with out := .loaded (leBytes 4 x.toNat) })

/-- 42_plic.md sections 3, 5 and 6: a priority becomes bits 2 to 0 of the stored value (the spec's decision D22), an enable
word all 32 bits of it (D24), a threshold the value but at most `NUM_PRIORITIES` (D23); no other PLIC register changes,
and Update runs. -/
def Obligations.PlicRegisterStores : Prop :=
  ∀ (s : State) (r : StoreReq), s.Inv → r.data.length = 4 →
    (∀ i, 1 ≤ i → i ≤ s.cfg.numSources → r.off = s.cfg.priorityBase + 4 * i →
        ∃ t, exec (.plicStPriority r) s = .next t ∧ t.out = .stored
          ∧ t.plic = { s.plic with priority := t.plic.priority }
          ∧ t.plic.priority.length = s.plic.priority.length ∧ (t.plic.prio i).toNat = leValue r.data % 8
          ∧ (∀ j, 1 ≤ j → j ≠ i → t.plic.prio j = s.plic.prio j) ∧ PlicEffect s t)
      ∧ (∀ a w, a < s.contexts.length → w < s.cfg.words →
          r.off = s.cfg.enableBase + a * s.cfg.enableStride + 4 * w →
          ∃ t, exec (.plicStEnable r) s = .next t ∧ t.out = .stored
            ∧ t.plic = { s.plic with enable := t.plic.enable }
            ∧ t.plic.enable.length = s.plic.enable.length ∧ (t.enableWord a w).toNat = leValue r.data
            ∧ (∀ b x, x < s.cfg.words → ¬(b = a ∧ x = w) → t.enableWord b x = s.enableWord b x) ∧ PlicEffect s t)
      ∧ (∀ a, a < s.contexts.length → r.off = s.cfg.contextBase + a * s.cfg.contextStride →
          ∃ t, exec (.plicStThreshold r) s = .next t ∧ t.out = .stored
            ∧ t.plic = { s.plic with threshold := t.plic.threshold }
            ∧ t.plic.threshold.length = s.plic.threshold.length
            ∧ (t.plic.thresh a).toNat = min (leValue r.data) s.cfg.numPriorities
            ∧ (∀ b, b ≠ a → t.plic.thresh b = s.plic.thresh b) ∧ PlicEffect s t)

/-- 42_plic.md section 7, PLIC.LD_CLAIM: the load answers the best id, which loses its pending bit and gets its
claimed bit, nothing else of the PLIC changes, and Update runs (after a claim by the spec's decision D27, log entry
20). -/
def Obligations.PlicClaim : Prop :=
  ∀ (s : State) (r : LoadReq) (a : Nat), s.Inv → r.len = 4 → a < s.contexts.length →
    r.off = s.cfg.contextBase + a * s.cfg.contextStride + 4 →
    ∃ t i, exec (.plicLdClaim r) s = .next t ∧ IsBest s a i ∧ t.out = .loaded (leBytes 4 i)
      ∧ t.plic = { s.plic with pending := t.plic.pending, claimed := t.plic.claimed }
      ∧ (∀ j, bitAt t.plic.pending j = (bitAt s.plic.pending j && !decide (j = i)))
      ∧ (∀ j, bitAt t.plic.claimed j = (bitAt s.plic.claimed j || decide (i ≠ 0 ∧ j = i))) ∧ PlicEffect s t

/-- 42_plic.md section 7, PLIC.ST_COMPLETE: an id from 1 to S loses its claimed bit (90_conflicts.md C2), any other value
changes no PLIC register (the spec's decision D25), and Update runs. -/
def Obligations.PlicComplete : Prop :=
  ∀ (s : State) (r : StoreReq) (a : Nat), s.Inv → r.data.length = 4 → a < s.contexts.length →
    r.off = s.cfg.contextBase + a * s.cfg.contextStride + 4 →
    ∃ t, exec (.plicStComplete r) s = .next t ∧ t.out = .stored
      ∧ t.plic = { s.plic with claimed := t.plic.claimed }
      ∧ (∀ j, bitAt t.plic.claimed j =
          (bitAt s.plic.claimed j && !decide (1 ≤ j ∧ j ≤ s.cfg.numSources ∧ j = leValue r.data)))
      ∧ PlicEffect s t

/-- 42_plic.md section 9, PLIC.SET_PENDING: the level is recorded; a rising edge sets pending unless the source is
claimed and such edges are dropped (the spec's decision D28); Update runs (its decision D27, log entry 20). An id
outside 1 to S is ignored (its decision D29). -/
def Obligations.PlicSetPending : Prop :=
  ∀ (s : State) (irq : Nat) (level : Bool), s.Inv →
    (1 ≤ irq → irq ≤ s.cfg.numSources →
      ∃ t, exec (.plicSetPending irq level) s = .next t ∧ t.out = .none
        ∧ t.plic = { s.plic with pending := t.plic.pending, level := t.plic.level }
        ∧ (∀ j, 1 ≤ j → t.plic.lev j = if j = irq then level else s.plic.lev j)
        ∧ (∀ j, bitAt t.plic.pending j =
            (bitAt s.plic.pending j
              || decide (j = irq ∧ s.plic.lev irq = false ∧ level = true
                  ∧ (bitAt s.plic.claimed irq = false ∨ s.cfg.edgeWhileClaimed = .latch))))
        ∧ PlicEffect s t)
      ∧ (¬(1 ≤ irq ∧ irq ≤ s.cfg.numSources) → exec (.plicSetPending irq level) s = .next { s with out := .none })

/-- 42_plic.md sections 2, 4 and 8: a misaligned access or one of another length than 4 (the spec's decision D20), a
store to a pending word, and an aligned access to no register (its decision D21) are refused and change nothing: no
Update runs; the fault address is that of log entry 11 with the spec's decision D43. -/
def Obligations.PlicRefusals : Prop :=
  (∀ (s : State) (a : Access), ¬(accessLen a = 4 ∧ a.off % 4 = 0) →
      exec (.plicMisaligned a) s = .next { s with out := refusedOut s .plic a })
    ∧ (∀ (s : State) (r : StoreReq) (w : Nat), s.plicSelects r.off r.data.length = some (.pending w) →
        exec (.plicStPending r) s = .next { s with out := refusedOut s .plic (.store r) })
    ∧ (∀ (s : State) (r : LoadReq), s.plicSelects r.off r.len = some .reserved →
        exec (.plicLdReserved r) s = .next { s with out := refusedOut s .plic (.load r) })
    ∧ (∀ (s : State) (r : StoreReq), s.plicSelects r.off r.data.length = some .reserved →
        exec (.plicStReserved r) s = .next { s with out := refusedOut s .plic (.store r) })

/-- 60_exceptions.md section 2: a pending bit is cleared only by a claim, which answers its id and claims it. -/
def Obligations.PendingClearedOnlyByClaim : Prop :=
  ∀ (s t : State) (i : Instr) (j : Nat), s.Inv → exec i s = .next t → bitAt s.plic.pending j = true →
    bitAt t.plic.pending j = false → t.out = .loaded (leBytes 4 j) ∧ bitAt t.plic.claimed j = true

/-- 70_reset_and_hazards.md section 3: an id that a claim returned is returned by no later claim of any context as long as
no store writes that id (so it is not completed). An inference the spec marks as its own. -/
def Obligations.OneClaimPerAssertion : Prop :=
  ∀ (s t u : State) (r : LoadReq) (a b i : Nat) (is : List Instr), s.Inv → a < s.contexts.length → r.len = 4 →
    r.off = s.cfg.contextBase + a * s.cfg.contextStride + 4 → IsBest s a i → i ≠ 0 →
    exec (.plicLdClaim r) s = .next t → (∀ x ∈ is, ¬StoresWord x i) → execAll is t = .next u → ¬IsBest u b i

/-! ## World-guard -/

/-- 43_worldguard.md section 1, WG.UNTRUSTED: every load or store of a hart outside the trusted world at a marker,
filter or PMP is refused and changes nothing, whichever row it is; the fault address is that of log entry 11 with the
spec's decision D43. A hart that is not there is in no world (log entry 18); an access of no byte or outside the
device (log entry 12) and a device that was not constructed (log entry 19) refuse as well. -/
def Obligations.UntrustedIsRefused : Prop :=
  ∀ (s : State) (i : Instr) (g : GuardDevice) (a : Access), portAccess i = some (guardDevice g, a) →
    ¬InTrustedWorld s (accessHart a) → exec i s = .next { s with out := refusedOut s (guardDevice g) a }

/-- 43_worldguard.md section 1, WG.CROSSING: an access that lies inside no one register or field is refused and
changes nothing (the spec's decision D32); the fault address is that of log entry 11 with the spec's decision D43. -/
def Obligations.CrossingIsRefused : Prop :=
  ∀ (s : State) (g : GuardDevice) (a : Access), crosses g a.off (accessLen a) = true →
    exec (.wgCrossing g a) s = .next { s with out := refusedOut s (guardDevice g) a }

/-- R272, R274: a trusted hart's load of any hart's marker answers bytes of `wid` or `lock`, locked or not, and changes
nothing. -/
def Obligations.MarkerLoads : Prop :=
  ∀ (s : State) (m : Nat) (r : LoadReq), s.Inv → m < s.cfg.nHarts → InTrustedWorld s r.hart → 1 ≤ r.len →
    (r.off + r.len ≤ 4 →
        ∃ b, IsWindow (s.marker m).wid r.off r.len b
          ∧ exec (.wgmLdWid m r) s = .next { s with out := .loaded b })
      ∧ (4 ≤ r.off → r.off + r.len ≤ 8 →
          ∃ b, IsWindow (s.marker m).lock (r.off - 4) r.len b
            ∧ exec (.wgmLdLock m r) s = .next { s with out := .loaded b })

/-- 43_worldguard.md section 2, WGM.ST_WID: on an unlocked marker a world of at most `WID_TRUSTED` is stored; a locked
marker, and a greater world (the spec's decision D33), refuse and change nothing; the fault address is that of log
entry 11 with the spec's decision D43. -/
def Obligations.MarkerStoreWid : Prop :=
  ∀ (s : State) (m : Nat) (r : StoreReq) (new : Word32), s.Inv → m < s.cfg.nHarts → InTrustedWorld s r.hart →
    1 ≤ r.data.length → r.off + r.data.length ≤ 4 → IsPatched (s.marker m).wid r.off r.data new →
    exec (.wgmStWid m r) s = .next
      (if (s.marker m).lock = 0#32 ∧ new.toNat ≤ s.cfg.widTrusted then
        { s with markers := s.markers.set m ⟨new, 0#32⟩, out := .stored }
      else { s with out := refusedOut s (.marker m) (.store r) })

/-- 43_worldguard.md section 2, WGM.ST_LOCK: on an unlocked marker `lock` is stored; a locked one refuses and changes
nothing; the fault address is that of log entry 11 with the spec's decision D43. -/
def Obligations.MarkerStoreLock : Prop :=
  ∀ (s : State) (m : Nat) (r : StoreReq) (new : Word32), s.Inv → m < s.cfg.nHarts → InTrustedWorld s r.hart →
    1 ≤ r.data.length → 4 ≤ r.off → r.off + r.data.length ≤ 8 → IsPatched (s.marker m).lock (r.off - 4) r.data new →
    exec (.wgmStLock m r) s = .next
      (if (s.marker m).lock = 0#32 then
        { s with markers := s.markers.set m ⟨(s.marker m).wid, new⟩, out := .stored }
      else { s with out := refusedOut s (.marker m) (.store r) })

/-- R280, R281: a trusted hart's load of a filter's register answers bytes of its mask, its store replaces them. -/
def Obligations.FilterRegister : Prop :=
  (∀ (s : State) (f : Nat) (r : LoadReq), s.Inv → f < s.cfg.filters.length → InTrustedWorld s r.hart → 1 ≤ r.len →
      r.off + r.len ≤ 4 →
      ∃ b, IsWindow (s.mask f) r.off r.len b ∧ exec (.wgfLdWid f r) s = .next { s with out := .loaded b })
    ∧ (∀ (s : State) (f : Nat) (r : StoreReq) (new : Word32), s.Inv → f < s.cfg.filters.length →
        InTrustedWorld s r.hart → 1 ≤ r.data.length → r.off + r.data.length ≤ 4 →
        IsPatched (s.mask f) r.off r.data new →
        exec (.wgfStWid f r) s = .next { s with filterMask := s.filterMask.set f new, out := .stored })

/-- 43_worldguard.md section 3, WGF.GATE: the filter allows an access, of any kind, exactly when it lies in the
filter's range (unbounded arithmetic, the spec's decision D1) and the issuing hart's world is not 0, is at most
`WID_TRUSTED`, and is in the mask or trusted. A gate run as an instruction of its own answers the decision and changes
nothing (log entry 24). -/
def Obligations.FilterGate : Prop :=
  ∀ (s : State) (f h len : Nat) (addr : Word64) (k : AccessKind) (p : FilterParams) (x : Marker),
    s.cfg.filters[f]? = some p → s.markers[h]? = some x →
    ∃ ok, exec (.wgfGate f h addr len k) s = .next { s with out := .gate ok }
      ∧ (ok = true ↔
          p.addr ≤ addr.toNat ∧ addr.toNat + len ≤ p.addr + p.size ∧ x.wid ≠ 0#32
            ∧ x.wid.toNat ≤ s.cfg.widTrusted
            ∧ ((s.mask f).getLsbD x.wid.toNat = true ∨ x.wid.toNat = s.cfg.widTrusted))

/-- R291, R293, R295, R297: a trusted hart's load of a PMP block's field answers bytes of it, locked or not, and changes
nothing. -/
def Obligations.PmpLoads : Prop :=
  ∀ (s : State) (p k j : Nat) (bs : List PmpBlock) (x : PmpBlock) (r : LoadReq), s.Inv → s.pmps[p]? = some bs →
    bs[k]? = some x → InTrustedWorld s r.hart → 1 ≤ r.len →
    (r.off = 0x18 * k + j → j + r.len ≤ 4 →
        ∃ b, IsWindow x.perm j r.len b ∧ exec (.wgpLdPerm p r) s = .next { s with out := .loaded b })
      ∧ (r.off = 0x18 * k + 0x04 + j → j + r.len ≤ 8 →
          ∃ b, IsWindow x.basePage j r.len b ∧ exec (.wgpLdBase p r) s = .next { s with out := .loaded b })
      ∧ (r.off = 0x18 * k + 0x0C + j → j + r.len ≤ 8 →
          ∃ b, IsWindow x.pageCount j r.len b ∧ exec (.wgpLdCount p r) s = .next { s with out := .loaded b })
      ∧ (r.off = 0x18 * k + 0x14 + j → j + r.len ≤ 4 →
          ∃ b, IsWindow x.lock j r.len b ∧ exec (.wgpLdLock p r) s = .next { s with out := .loaded b })

/-- 43_worldguard.md section 4, the stores: a trusted hart's store to a field of an unlocked block replaces its bytes
and changes nothing else; a locked block refuses and changes nothing; the fault address is that of log entry 11 with
the spec's decision D43. -/
def Obligations.PmpStores : Prop :=
  ∀ (s : State) (p k j : Nat) (bs : List PmpBlock) (x : PmpBlock) (r : StoreReq), s.Inv → s.pmps[p]? = some bs →
    bs[k]? = some x → InTrustedWorld s r.hart → 1 ≤ r.data.length →
    (∀ new, r.off = 0x18 * k + j → j + r.data.length ≤ 4 → IsPatched x.perm j r.data new →
        exec (.wgpStPerm p r) s = .next
          (if x.lock = 0#32 then
            { s with pmps := s.pmps.set p (bs.set k { x with perm := new }), out := .stored }
          else { s with out := refusedOut s (.pmp p) (.store r) }))
      ∧ (∀ new, r.off = 0x18 * k + 0x04 + j → j + r.data.length ≤ 8 → IsPatched x.basePage j r.data new →
          exec (.wgpStBase p r) s = .next
            (if x.lock = 0#32 then
              { s with pmps := s.pmps.set p (bs.set k { x with basePage := new }), out := .stored }
            else { s with out := refusedOut s (.pmp p) (.store r) }))
      ∧ (∀ new, r.off = 0x18 * k + 0x0C + j → j + r.data.length ≤ 8 → IsPatched x.pageCount j r.data new →
          exec (.wgpStCount p r) s = .next
            (if x.lock = 0#32 then
              { s with pmps := s.pmps.set p (bs.set k { x with pageCount := new }), out := .stored }
            else { s with out := refusedOut s (.pmp p) (.store r) }))
      ∧ (∀ new, r.off = 0x18 * k + 0x14 + j → j + r.data.length ≤ 4 → IsPatched x.lock j r.data new →
          exec (.wgpStLock p r) s = .next
            (if x.lock = 0#32 then
              { s with pmps := s.pmps.set p (bs.set k { x with lock := new }), out := .stored }
            else { s with out := refusedOut s (.pmp p) (.store r) }))

/-- 43_worldguard.md section 4: the PMP allows an access exactly when the issuing hart is in the trusted world (the
spec's decision D41) or some one block covers all of it (unbounded arithmetic, D40) and grants the world the bit of
the kind, a fetch counting as a read (D5). A gate run as an instruction of its own answers the decision and changes
nothing (log entry 24). -/
def Obligations.PmpGate : Prop :=
  ∀ (s : State) (p h len : Nat) (addr : Word64) (k : AccessKind) (bs : List PmpBlock) (x : Marker),
    s.pmps[p]? = some bs → s.markers[h]? = some x →
    ∃ ok, exec (.wgpGate p h addr len k) s = .next { s with out := .gate ok }
      ∧ (ok = true ↔
          x.wid.toNat = s.cfg.widTrusted ∨
            ∃ b ∈ bs, b.basePage.toNat * 4096 ≤ addr.toNat
              ∧ addr.toNat + len ≤ (b.basePage.toNat + b.pageCount.toNat) * 4096
              ∧ x.wid.toNat ≤ 15
              ∧ b.perm.getLsbD (2 * x.wid.toNat + if k = .store then 0 else 1) = true)

/-- 43_worldguard.md sections 2 and 4, 70_reset_and_hazards.md section 3 (inferences the spec marks as its own): no step of
a constructed block changes a locked marker or a locked PMP block. -/
def Obligations.LocksAreForever : Prop :=
  ∀ s t : State, s.Inv → step s = .next t →
    (∀ m, (s.marker m).lock ≠ 0#32 → t.marker m = s.marker m)
      ∧ (∀ p k, (s.block p k).lock ≠ 0#32 → t.block p k = s.block p k)

/-- 60_exceptions.md section 5: no instruction changes a marker, a filter's mask or a PMP block but a store issued by a
hart in the trusted world. -/
def Obligations.OnlyTheTrustedWorldWritesGuards : Prop :=
  ∀ (s t : State) (i : Instr), s.Inv → exec i s = .next t →
    t.markers ≠ s.markers ∨ t.filterMask ≠ s.filterMask ∨ t.pmps ≠ s.pmps →
    ∃ h b, issuer i = some h ∧ storedBytes i = some b ∧ InTrustedWorld s h

/-! ## Bus -/

/-- R163: the lookup gives the entry of the map with the greatest base not above the address, or none when every base is
above it. -/
def Obligations.FindDevice : Prop :=
  ∀ (bus : List BusEntry) (addr : Nat),
    (∀ e, findDevice bus addr = some e → e ∈ bus ∧ e.base ≤ addr ∧ ∀ x ∈ bus, x.base ≤ addr → x.base ≤ e.base)
      ∧ (findDevice bus addr = none ↔ ∀ x ∈ bus, addr < x.base)

/-- 40_bus.md section 3 and 20_memory.md section 3: a load or fetch that lies inside a RAM device's entry, and that its
guards allow, answers the bytes at its addresses and changes nothing. RAM is a parameter of the model (log entry 6); a
fetch on the bus is the spec's decision D5. -/
def Obligations.BusLoadsRam : Prop :=
  ∀ (s : State) (e : BusEntry) (h len size : Nat) (addr : Word64) (k : LoadKind), s.Inv → e ∈ s.bus →
    e.device = .ram size → 1 ≤ len → e.base ≤ addr.toNat → addr.toNat + len ≤ e.base + e.size →
    (∀ g ∈ e.guards, gate s g h addr.toNat len (accessKind k) = true) →
    ∃ b, b.length = len ∧ (∀ j < len, b.getD j 0#8 = s.mem.read (addr.toNat + j))
      ∧ exec (.busLoad h addr len k) s = .next { s with out := .loaded b }

/-- 40_bus.md section 3: a store that lies inside a RAM device's entry, and that its guards allow, puts its bytes at its
addresses; every other byte reads as before, and nothing else changes (log entry 6). -/
def Obligations.BusStoresRam : Prop :=
  ∀ (s : State) (e : BusEntry) (h size : Nat) (addr : Word64) (b : Bytes), s.Inv → e ∈ s.bus →
    e.device = .ram size → 1 ≤ b.length → e.base ≤ addr.toNat → addr.toNat + b.length ≤ e.base + e.size →
    (∀ g ∈ e.guards, gate s g h addr.toNat b.length .store = true) →
    ∃ m, exec (.busStore h addr b) s = .next { s with mem := m, out := .stored } ∧ Memory.wf m
      ∧ (∀ a, m.read a = if addr.toNat ≤ a ∧ a < addr.toNat + b.length then b.getD (a - addr.toNat) 0#8
          else s.mem.read a)

/-- 40_bus.md sections 3 and 4: an access of no byte (the spec's decision D2), one that does not lie inside one entry, and
one that a guard of its entry denies are refused at the bus: the issuing hart gets an access fault of the access's kind
at its start address (the spec's decision D43), and nothing changes. -/
def Obligations.BusRefusals : Prop :=
  (∀ (s : State) (h len : Nat) (addr : Word64) (k : LoadKind), s.Inv →
      (len = 0 ∨ (∀ e ∈ s.bus, ¬(e.base ≤ addr.toNat ∧ addr.toNat + len ≤ e.base + e.size))
        ∨ ∃ e ∈ s.bus, e.base ≤ addr.toNat ∧ addr.toNat + len ≤ e.base + e.size
            ∧ ∃ g ∈ e.guards, gate s g h addr.toNat len (accessKind k) = false) →
      exec (.busLoad h addr len k) s = .next { s with out := .accessFault ⟨h, faultKind k, addr⟩ })
    ∧ (∀ (s : State) (h : Nat) (addr : Word64) (b : Bytes), s.Inv →
        (b = [] ∨ (∀ e ∈ s.bus, ¬(e.base ≤ addr.toNat ∧ addr.toNat + b.length ≤ e.base + e.size))
          ∨ ∃ e ∈ s.bus, e.base ≤ addr.toNat ∧ addr.toNat + b.length ≤ e.base + e.size
              ∧ ∃ g ∈ e.guards, gate s g h addr.toNat b.length .store = false) →
        exec (.busStore h addr b) s = .next { s with out := .accessFault ⟨h, .store, addr⟩ })

/-- 30_encoding.md section 2, 40_bus.md section 3: an access that the bus forwards is the access at the device's port, at
the offset from the entry's base, by whichever row of the device (log entry 11). -/
def Obligations.BusReachesThePort : Prop :=
  ∀ (s : State) (e : BusEntry) (h : Nat) (addr : Word64) (i : Instr), s.Inv →
    s.bus.find? (fun x => decide (x.device = e.device)) = some e → e.base ≤ addr.toNat →
    (∀ (len : Nat) (k : LoadKind), 1 ≤ len → addr.toNat + len ≤ e.base + e.size →
        (∀ g ∈ e.guards, gate s g h addr.toNat len (accessKind k) = true) →
        portAccess i = some (e.device, .load ⟨h, k, addr.toNat - e.base, len⟩) →
        exec (.busLoad h addr len k) s = exec i s)
      ∧ (∀ b : Bytes, 1 ≤ b.length → addr.toNat + b.length ≤ e.base + e.size →
          (∀ g ∈ e.guards, gate s g h addr.toNat b.length .store = true) →
          portAccess i = some (e.device, .store ⟨h, addr.toNat - e.base, b⟩) →
          exec (.busStore h addr b) s = exec i s)

/-- 60_exceptions.md section 1: a load on the bus answers exactly the bytes asked for, a store `true`, or either an
access fault on the issuing hart, of the transaction's kind and at its start address (the spec's decision D43), with
cause code 5, 7 or 1 (the spec's general knowledge, log entry 10). -/
def Obligations.BusAccessesAnswer : Prop :=
  (∀ (s : State) (h len : Nat) (addr : Word64) (k : LoadKind),
      ∃ t, exec (.busLoad h addr len k) s = .next t
        ∧ ((∃ b, t.out = .loaded b ∧ b.length = len) ∨ t.out = .accessFault ⟨h, faultKind k, addr⟩))
    ∧ (∀ (s : State) (h : Nat) (addr : Word64) (b : Bytes),
        ∃ t, exec (.busStore h addr b) s = .next t
          ∧ (t.out = .stored ∨ t.out = .accessFault ⟨h, .store, addr⟩))
    ∧ (faultKind .load).code = 5 ∧ FaultKind.store.code = 7 ∧ (faultKind .fetch).code = 1

/-- 60_exceptions.md section 4 (an inference the spec marks as its own): a refused access leaves the block as it was,
but for the CLINT frame's time and MTIP. The record of what external devices were offered, the model's own, may grow
(log entry 7). -/
def Obligations.RefusedAccessIsPrecise : Prop :=
  ∀ (s t : State) (i : Instr) (f : AccessFault), exec i s = .next t → t.out = .accessFault f →
    t = { s with
          mtime := t.mtime, mip := t.mip, clockUs := t.clockUs, clockDraws := t.clockDraws, extLog := t.extLog,
          out := .accessFault f }
      ∧ t.mip.length = s.mip.length
      ∧ (∀ h, (t.mipOf h).msip = (s.mipOf h).msip ∧ (t.mipOf h).meip = (s.mipOf h).meip
          ∧ (t.mipOf h).seip = (s.mipOf h).seip)
      ∧ (s.cfg.realTime = false → t.mtime = s.mtime)

/-- No instruction changes a byte of memory but a store on the bus, and that one only bytes it stores to (log entry 6). -/
def Obligations.MemoryFrame : Prop :=
  ∀ (s t : State) (i : Instr) (a : Nat), s.Inv → exec i s = .next t →
    (∀ (h : Nat) (addr : Word64) (b : Bytes), i = .busStore h addr b →
      ¬(addr.toNat ≤ a ∧ a < addr.toNat + b.length)) →
    t.mem.read a = s.mem.read a

/-! ## Construction -/

/-- 42_plic.md section 10, hart config parsing: the text is accepted exactly when every character but commas is a mode
(the spec's decision D30) and no mode comes twice between commas; its contexts are its modes in order, numbered from 0,
each on the hart whose number is that of the commas before it. -/
def Obligations.HartConfigParsing : Prop :=
  ∀ (cs : List Char) (contexts : List Context),
    parseHartConfig cs = .ok contexts ↔
      (∀ p ∈ hartChars 0 cs, p.2 ∈ ['M', 'S', 'U', 'H']) ∧ (hartChars 0 cs).Nodup
        ∧ contexts.map (·.addrid) = List.range contexts.length
        ∧ contexts.map (fun c => (c.hartid, some c.mode)) = (hartChars 0 cs).map (fun p => (p.1, modeOf p.2))

/-- 10_state.md section 8 and 70_reset_and_hazards.md section 1: on accepted parameters SYS.CONSTRUCT gives the state
of the reset table (`mtime`, the PLIC, the filters and the PMPs by the spec's decisions D56, D55, D36 and D39; the map
and the empty RAM by log entries 13 and 6). -/
def Obligations.ConstructGivesTheResetState : Prop :=
  ∀ (c : Config) (s : State) (contexts : List Context), s.phase = .unbuilt →
    parseHartConfig c.hartConfig = .ok contexts → parameterError c contexts.length = none → ValidMap c →
    ∃ t, exec (.sysConstruct c) s = .next t ∧ t.phase = .configuring ∧ t.cfg = c ∧ t.contexts = contexts
      ∧ (∀ e : BusEntry, e ∈ t.bus ↔
          ∃ x ∈ c.deviceMap, e = ⟨x.base.toNat, (deviceSize c x.device).getD 0, x.device, x.guards⟩)
      ∧ t.mtime = 0#64 ∧ t.mtimecmp = c.mtimecmpReset ∧ t.mip = c.mipReset ∧ t.Shape
      ∧ (∀ i, t.plic.prio i = 0#3 ∧ t.plic.lev i = false ∧ bitAt t.plic.pending i = false
          ∧ bitAt t.plic.claimed i = false)
      ∧ (∀ a w, t.plic.thresh a = 0#32 ∧ t.enableWord a w = 0#32)
      ∧ (∀ (m w : Nat), c.markerWidInit[m]? = some w → t.markers[m]? = some ⟨BitVec.ofNat 32 w, 0#32⟩)
      ∧ (∀ (f : Nat) (p : FilterParams), c.filters[f]? = some p → t.filterMask[f]? = some (BitVec.ofNat 32 (2 ^ p.widInit ||| p.maskInit)))
      ∧ (∀ p k, t.block p k = ⟨0#32, 0#64, 0#64, 0#32⟩) ∧ t.mem = [] ∧ t.queue = s.queue ∧ t.out = .none

/-- 60_exceptions.md section 1, configuration errors: each of them ends construction with a fault; there is no initial
state (the spec's decision D48). What leaves the ranges of 00_scope.md section 4, a per-hart list of another length
than N, and a device or guard that was not constructed count among them by log entry 15; an empty segment of
`HART_CONFIG` beyond the last hart does by the spec's decision D30. -/
def Obligations.ConstructRejects : Prop :=
  ∀ (c : Config) (s : State), s.phase = .unbuilt →
    (¬(1 ≤ c.nHarts ∧ c.nHarts ≤ 4095) ∨ c.mtimecmpReset.length ≠ c.nHarts ∨ c.mipReset.length ≠ c.nHarts
      ∨ c.markerWidInit.length ≠ c.nHarts ∨ c.freqHz = 0 ∨ c.numSources = 0 ∨ 2 ^ 32 ≤ c.numPriorities
      ∨ (∃ p ∈ hartChars 0 c.hartConfig, p.2 ∉ ['M', 'S', 'U', 'H']) ∨ ¬(hartChars 0 c.hartConfig).Nodup
      ∨ (∃ p ∈ hartChars 0 c.hartConfig, c.nHarts ≤ p.1) ∨ c.nHarts ≤ c.hartConfig.count ','
      ∨ ¬plicLayoutOk c (hartChars 0 c.hartConfig).length = true
      ∨ ¬(1 ≤ c.widTrusted ∧ c.widTrusted ≤ 15) ∨ (∃ w ∈ c.markerWidInit, c.widTrusted < w)
      ∨ (∃ f ∈ c.filters, c.widTrusted < f.widInit) ∨ (∃ n ∈ c.pmpBlocks, c.widTrusted < n) ∨ ¬ValidMap c) →
    ∃ e, exec (.sysConstruct c) s = .fault (.configuration e)

/-- 40_bus.md section 5, BUS.ADD_DEVICE: while devices are still being added (log entry 14), a constructed device of
at least one byte that fits the address space and overlaps no entry is inserted with its guards, and nothing else
changes; one that has no byte, does not fit or overlaps an entry is a configuration error (the spec's decision D3). -/
def Obligations.AddDevice : Prop :=
  ∀ (s : State) (base : Word64) (d : Device) (gs : List Guard) (size : Nat), s.Inv → s.phase = .configuring →
    deviceSize s.cfg d = some size → gs.all (guardExists s.cfg) = true →
    (size ≠ 0 → base.toNat + size ≤ 2 ^ 64 →
        (∀ e ∈ s.bus, e.base + e.size ≤ base.toNat ∨ base.toNat + size ≤ e.base) →
        ∃ bus, exec (.busAddDevice base d gs) s = .next { s with bus := bus, out := .none }
          ∧ bus.Pairwise (fun x y => x.base + x.size ≤ y.base)
          ∧ ∀ e : BusEntry, e ∈ bus ↔ e = ⟨base.toNat, size, d, gs⟩ ∨ e ∈ s.bus)
      ∧ (size = 0 ∨ 2 ^ 64 < base.toNat + size
          ∨ (∃ e ∈ s.bus, e.base < base.toNat + size ∧ base.toNat < e.base + e.size) →
        ∃ x, exec (.busAddDevice base d gs) s = .fault (.configuration x))

/-- 70_reset_and_hazards.md section 1 and 40_bus.md section 5: there is no later reset, and no device is added once
transactions run (the phases are the model's, log entry 14). -/
def Obligations.ConstructionIsOnce : Prop :=
  ∀ (s : State), s.phase ≠ .unbuilt →
    (∀ c, exec (.sysConstruct c) s = .refused .alreadyConstructed)
      ∧ (s.phase = .running → ∀ base d gs, exec (.busAddDevice base d gs) s = .refused .constructionOver)

/-! ## Steps -/

/-- 20_memory.md section 7: a step takes the record at the head of the queue and is `exec` of the instruction it
decodes to, at the state without it; the first request that is no configuration ends construction (log entries 2, 14).
With nothing in the queue nothing happens; what is no record, and every request before construction but a
configuration, an atomic access and a fence among them, are refused. -/
def Obligations.StepRunsTheDecodedRecord : Prop :=
  (∀ (s : State) (bytes : Bytes) (rest : List Bytes) (i : Instr), s.queue = bytes :: rest →
      decodeRecord bytes = some (.transaction i) →
      (isConfiguration i = true → step s = exec i { s with queue := rest })
        ∧ (isConfiguration i = false → s.phase ≠ .unbuilt →
            step s = exec i { s with queue := rest, phase := .running })
        ∧ (isConfiguration i = false → s.phase = .unbuilt → step s = .refused .notConstructed))
    ∧ (∀ s : State, s.queue = [] → step s = .next s)
    ∧ (∀ (s : State) (bytes : Bytes) (rest : List Bytes), s.queue = bytes :: rest → decodeRecord bytes = none →
        step s = .refused .malformedRecord)
    ∧ (∀ (s : State) (bytes : Bytes) (rest : List Bytes), s.queue = bytes :: rest → s.phase = .unbuilt →
        (∃ k h addr, decodeRecord bytes = some (.atomic k h addr)) ∨ (∃ h, decodeRecord bytes = some (.fence h)) →
        step s = .refused .notConstructed)

/-- 20_memory.md section 7: an atomic access is outside the interface and refused (the spec's decision D45; an LR as a
load, an AMO or SC as a store, log entry 17); a fence has no effect (its decision D46). -/
def Obligations.AtomicsAndFences : Prop :=
  ∀ (s : State) (bytes : Bytes) (rest : List Bytes), s.queue = bytes :: rest → s.phase ≠ .unbuilt →
    (∀ k h addr, decodeRecord bytes = some (.atomic k h addr) →
        step s = .next { s with
          queue := rest, phase := .running,
          out := .accessFault ⟨h, if k = .lr then .load else .store, addr⟩ })
      ∧ (∀ h, decodeRecord bytes = some (.fence h) →
          step s = .next { s with queue := rest, phase := .running, out := .none })

/-- Reset is construction (10_state.md section 8): the reset state is what SYS.CONSTRUCT gives on the parameters of log
entry 4. -/
def Obligations.ResetIsConstruction : Prop :=
  exec (.sysConstruct Config.standard) State.unbuilt = .next State.reset

/-- The reset state meets the invariant. -/
def Obligations.ResetMeetsInv : Prop := State.reset.Inv

/-- 10_state.md section 9: a step that ends in a constructed block keeps or establishes the invariant: the array sizes,
the PLIC's bits and thresholds, the markers' worlds, the map without overlaps, the contexts and parameters, the memory's
canonical form. -/
def Obligations.StepKeepsInv : Prop :=
  ∀ s t : State, s.phase = .unbuilt ∨ s.Inv → step s = .next t → (s.phase = .unbuilt ∧ t = s) ∨ t.Inv

/-- 10_state.md section 9: no step changes the parameters or the contexts, and the bus map changes only by a
BUS.ADD_DEVICE while devices are being added (log entry 14), which takes no entry away. -/
def Obligations.ConfigurationIsFixed : Prop :=
  ∀ s t : State, s.Inv → step s = .next t →
    t.cfg = s.cfg ∧ t.contexts = s.contexts ∧ t.pmps.map List.length = s.pmps.map List.length
      ∧ (s.phase = .running → t.phase = .running ∧ t.bus = s.bus) ∧ (∀ e ∈ s.bus, e ∈ t.bus)
      ∧ (t.bus ≠ s.bus → s.phase = .configuring ∧ ∃ bytes rest base d gs, s.queue = bytes :: rest
          ∧ decodeRecord bytes = some (.transaction (.busAddDevice base d gs)))

/-- 70_reset_and_hazards.md section 4: every run-time transaction completes, in every state (SYS.CONSTRUCT and
BUS.ADD_DEVICE, the configuration, may end in a configuration error). -/
def Obligations.EveryTransactionCompletes : Prop :=
  ∀ (i : Instr) (s : State), isConfiguration i = false → Completes (exec i s)
end

