-- ==== Sys2Proof/Laws/State.lean ====
section
/-! SUPPORT. One lemma per field per update of the state, so that no proof unfolds an update. -/

namespace Sys2Proof.Machine

variable (s : State)

@[simp] theorem State.setPhase_phase (x : Phase) : (s.setPhase x).phase = x := rfl
@[simp] theorem State.setPhase_cfg (x : Phase) : (s.setPhase x).cfg = s.cfg := rfl
@[simp] theorem State.setPhase_bus (x : Phase) : (s.setPhase x).bus = s.bus := rfl
@[simp] theorem State.setPhase_mtime (x : Phase) : (s.setPhase x).mtime = s.mtime := rfl
@[simp] theorem State.setPhase_mtimecmp (x : Phase) : (s.setPhase x).mtimecmp = s.mtimecmp := rfl
@[simp] theorem State.setPhase_mip (x : Phase) : (s.setPhase x).mip = s.mip := rfl
@[simp] theorem State.setPhase_plic (x : Phase) : (s.setPhase x).plic = s.plic := rfl
@[simp] theorem State.setPhase_contexts (x : Phase) : (s.setPhase x).contexts = s.contexts := rfl
@[simp] theorem State.setPhase_markers (x : Phase) : (s.setPhase x).markers = s.markers := rfl
@[simp] theorem State.setPhase_filterMask (x : Phase) : (s.setPhase x).filterMask = s.filterMask := rfl
@[simp] theorem State.setPhase_pmps (x : Phase) : (s.setPhase x).pmps = s.pmps := rfl
@[simp] theorem State.setPhase_mem (x : Phase) : (s.setPhase x).mem = s.mem := rfl
@[simp] theorem State.setPhase_clockUs (x : Phase) : (s.setPhase x).clockUs = s.clockUs := rfl
@[simp] theorem State.setPhase_clockDraws (x : Phase) : (s.setPhase x).clockDraws = s.clockDraws := rfl
@[simp] theorem State.setPhase_extLog (x : Phase) : (s.setPhase x).extLog = s.extLog := rfl
@[simp] theorem State.setPhase_queue (x : Phase) : (s.setPhase x).queue = s.queue := rfl
@[simp] theorem State.setPhase_out (x : Phase) : (s.setPhase x).out = s.out := rfl

@[simp] theorem State.setBus_phase (x : List BusEntry) : (s.setBus x).phase = s.phase := rfl
@[simp] theorem State.setBus_cfg (x : List BusEntry) : (s.setBus x).cfg = s.cfg := rfl
@[simp] theorem State.setBus_bus (x : List BusEntry) : (s.setBus x).bus = x := rfl
@[simp] theorem State.setBus_mtime (x : List BusEntry) : (s.setBus x).mtime = s.mtime := rfl
@[simp] theorem State.setBus_mtimecmp (x : List BusEntry) : (s.setBus x).mtimecmp = s.mtimecmp := rfl
@[simp] theorem State.setBus_mip (x : List BusEntry) : (s.setBus x).mip = s.mip := rfl
@[simp] theorem State.setBus_plic (x : List BusEntry) : (s.setBus x).plic = s.plic := rfl
@[simp] theorem State.setBus_contexts (x : List BusEntry) : (s.setBus x).contexts = s.contexts := rfl
@[simp] theorem State.setBus_markers (x : List BusEntry) : (s.setBus x).markers = s.markers := rfl
@[simp] theorem State.setBus_filterMask (x : List BusEntry) : (s.setBus x).filterMask = s.filterMask := rfl
@[simp] theorem State.setBus_pmps (x : List BusEntry) : (s.setBus x).pmps = s.pmps := rfl
@[simp] theorem State.setBus_mem (x : List BusEntry) : (s.setBus x).mem = s.mem := rfl
@[simp] theorem State.setBus_clockUs (x : List BusEntry) : (s.setBus x).clockUs = s.clockUs := rfl
@[simp] theorem State.setBus_clockDraws (x : List BusEntry) : (s.setBus x).clockDraws = s.clockDraws := rfl
@[simp] theorem State.setBus_extLog (x : List BusEntry) : (s.setBus x).extLog = s.extLog := rfl
@[simp] theorem State.setBus_queue (x : List BusEntry) : (s.setBus x).queue = s.queue := rfl
@[simp] theorem State.setBus_out (x : List BusEntry) : (s.setBus x).out = s.out := rfl

@[simp] theorem State.setMtime_phase (x : Word64) : (s.setMtime x).phase = s.phase := rfl
@[simp] theorem State.setMtime_cfg (x : Word64) : (s.setMtime x).cfg = s.cfg := rfl
@[simp] theorem State.setMtime_bus (x : Word64) : (s.setMtime x).bus = s.bus := rfl
@[simp] theorem State.setMtime_mtime (x : Word64) : (s.setMtime x).mtime = x := rfl
@[simp] theorem State.setMtime_mtimecmp (x : Word64) : (s.setMtime x).mtimecmp = s.mtimecmp := rfl
@[simp] theorem State.setMtime_mip (x : Word64) : (s.setMtime x).mip = s.mip := rfl
@[simp] theorem State.setMtime_plic (x : Word64) : (s.setMtime x).plic = s.plic := rfl
@[simp] theorem State.setMtime_contexts (x : Word64) : (s.setMtime x).contexts = s.contexts := rfl
@[simp] theorem State.setMtime_markers (x : Word64) : (s.setMtime x).markers = s.markers := rfl
@[simp] theorem State.setMtime_filterMask (x : Word64) : (s.setMtime x).filterMask = s.filterMask := rfl
@[simp] theorem State.setMtime_pmps (x : Word64) : (s.setMtime x).pmps = s.pmps := rfl
@[simp] theorem State.setMtime_mem (x : Word64) : (s.setMtime x).mem = s.mem := rfl
@[simp] theorem State.setMtime_clockUs (x : Word64) : (s.setMtime x).clockUs = s.clockUs := rfl
@[simp] theorem State.setMtime_clockDraws (x : Word64) : (s.setMtime x).clockDraws = s.clockDraws := rfl
@[simp] theorem State.setMtime_extLog (x : Word64) : (s.setMtime x).extLog = s.extLog := rfl
@[simp] theorem State.setMtime_queue (x : Word64) : (s.setMtime x).queue = s.queue := rfl
@[simp] theorem State.setMtime_out (x : Word64) : (s.setMtime x).out = s.out := rfl

@[simp] theorem State.setMtimecmp_phase (x : List Word64) : (s.setMtimecmp x).phase = s.phase := rfl
@[simp] theorem State.setMtimecmp_cfg (x : List Word64) : (s.setMtimecmp x).cfg = s.cfg := rfl
@[simp] theorem State.setMtimecmp_bus (x : List Word64) : (s.setMtimecmp x).bus = s.bus := rfl
@[simp] theorem State.setMtimecmp_mtime (x : List Word64) : (s.setMtimecmp x).mtime = s.mtime := rfl
@[simp] theorem State.setMtimecmp_mtimecmp (x : List Word64) : (s.setMtimecmp x).mtimecmp = x := rfl
@[simp] theorem State.setMtimecmp_mip (x : List Word64) : (s.setMtimecmp x).mip = s.mip := rfl
@[simp] theorem State.setMtimecmp_plic (x : List Word64) : (s.setMtimecmp x).plic = s.plic := rfl
@[simp] theorem State.setMtimecmp_contexts (x : List Word64) : (s.setMtimecmp x).contexts = s.contexts := rfl
@[simp] theorem State.setMtimecmp_markers (x : List Word64) : (s.setMtimecmp x).markers = s.markers := rfl
@[simp] theorem State.setMtimecmp_filterMask (x : List Word64) : (s.setMtimecmp x).filterMask = s.filterMask := rfl
@[simp] theorem State.setMtimecmp_pmps (x : List Word64) : (s.setMtimecmp x).pmps = s.pmps := rfl
@[simp] theorem State.setMtimecmp_mem (x : List Word64) : (s.setMtimecmp x).mem = s.mem := rfl
@[simp] theorem State.setMtimecmp_clockUs (x : List Word64) : (s.setMtimecmp x).clockUs = s.clockUs := rfl
@[simp] theorem State.setMtimecmp_clockDraws (x : List Word64) : (s.setMtimecmp x).clockDraws = s.clockDraws := rfl
@[simp] theorem State.setMtimecmp_extLog (x : List Word64) : (s.setMtimecmp x).extLog = s.extLog := rfl
@[simp] theorem State.setMtimecmp_queue (x : List Word64) : (s.setMtimecmp x).queue = s.queue := rfl
@[simp] theorem State.setMtimecmp_out (x : List Word64) : (s.setMtimecmp x).out = s.out := rfl

@[simp] theorem State.setMip_phase (x : List Mip) : (s.setMip x).phase = s.phase := rfl
@[simp] theorem State.setMip_cfg (x : List Mip) : (s.setMip x).cfg = s.cfg := rfl
@[simp] theorem State.setMip_bus (x : List Mip) : (s.setMip x).bus = s.bus := rfl
@[simp] theorem State.setMip_mtime (x : List Mip) : (s.setMip x).mtime = s.mtime := rfl
@[simp] theorem State.setMip_mtimecmp (x : List Mip) : (s.setMip x).mtimecmp = s.mtimecmp := rfl
@[simp] theorem State.setMip_mip (x : List Mip) : (s.setMip x).mip = x := rfl
@[simp] theorem State.setMip_plic (x : List Mip) : (s.setMip x).plic = s.plic := rfl
@[simp] theorem State.setMip_contexts (x : List Mip) : (s.setMip x).contexts = s.contexts := rfl
@[simp] theorem State.setMip_markers (x : List Mip) : (s.setMip x).markers = s.markers := rfl
@[simp] theorem State.setMip_filterMask (x : List Mip) : (s.setMip x).filterMask = s.filterMask := rfl
@[simp] theorem State.setMip_pmps (x : List Mip) : (s.setMip x).pmps = s.pmps := rfl
@[simp] theorem State.setMip_mem (x : List Mip) : (s.setMip x).mem = s.mem := rfl
@[simp] theorem State.setMip_clockUs (x : List Mip) : (s.setMip x).clockUs = s.clockUs := rfl
@[simp] theorem State.setMip_clockDraws (x : List Mip) : (s.setMip x).clockDraws = s.clockDraws := rfl
@[simp] theorem State.setMip_extLog (x : List Mip) : (s.setMip x).extLog = s.extLog := rfl
@[simp] theorem State.setMip_queue (x : List Mip) : (s.setMip x).queue = s.queue := rfl
@[simp] theorem State.setMip_out (x : List Mip) : (s.setMip x).out = s.out := rfl

@[simp] theorem State.setPlic_phase (x : Plic) : (s.setPlic x).phase = s.phase := rfl
@[simp] theorem State.setPlic_cfg (x : Plic) : (s.setPlic x).cfg = s.cfg := rfl
@[simp] theorem State.setPlic_bus (x : Plic) : (s.setPlic x).bus = s.bus := rfl
@[simp] theorem State.setPlic_mtime (x : Plic) : (s.setPlic x).mtime = s.mtime := rfl
@[simp] theorem State.setPlic_mtimecmp (x : Plic) : (s.setPlic x).mtimecmp = s.mtimecmp := rfl
@[simp] theorem State.setPlic_mip (x : Plic) : (s.setPlic x).mip = s.mip := rfl
@[simp] theorem State.setPlic_plic (x : Plic) : (s.setPlic x).plic = x := rfl
@[simp] theorem State.setPlic_contexts (x : Plic) : (s.setPlic x).contexts = s.contexts := rfl
@[simp] theorem State.setPlic_markers (x : Plic) : (s.setPlic x).markers = s.markers := rfl
@[simp] theorem State.setPlic_filterMask (x : Plic) : (s.setPlic x).filterMask = s.filterMask := rfl
@[simp] theorem State.setPlic_pmps (x : Plic) : (s.setPlic x).pmps = s.pmps := rfl
@[simp] theorem State.setPlic_mem (x : Plic) : (s.setPlic x).mem = s.mem := rfl
@[simp] theorem State.setPlic_clockUs (x : Plic) : (s.setPlic x).clockUs = s.clockUs := rfl
@[simp] theorem State.setPlic_clockDraws (x : Plic) : (s.setPlic x).clockDraws = s.clockDraws := rfl
@[simp] theorem State.setPlic_extLog (x : Plic) : (s.setPlic x).extLog = s.extLog := rfl
@[simp] theorem State.setPlic_queue (x : Plic) : (s.setPlic x).queue = s.queue := rfl
@[simp] theorem State.setPlic_out (x : Plic) : (s.setPlic x).out = s.out := rfl

@[simp] theorem State.setMarkers_phase (x : List Marker) : (s.setMarkers x).phase = s.phase := rfl
@[simp] theorem State.setMarkers_cfg (x : List Marker) : (s.setMarkers x).cfg = s.cfg := rfl
@[simp] theorem State.setMarkers_bus (x : List Marker) : (s.setMarkers x).bus = s.bus := rfl
@[simp] theorem State.setMarkers_mtime (x : List Marker) : (s.setMarkers x).mtime = s.mtime := rfl
@[simp] theorem State.setMarkers_mtimecmp (x : List Marker) : (s.setMarkers x).mtimecmp = s.mtimecmp := rfl
@[simp] theorem State.setMarkers_mip (x : List Marker) : (s.setMarkers x).mip = s.mip := rfl
@[simp] theorem State.setMarkers_plic (x : List Marker) : (s.setMarkers x).plic = s.plic := rfl
@[simp] theorem State.setMarkers_contexts (x : List Marker) : (s.setMarkers x).contexts = s.contexts := rfl
@[simp] theorem State.setMarkers_markers (x : List Marker) : (s.setMarkers x).markers = x := rfl
@[simp] theorem State.setMarkers_filterMask (x : List Marker) : (s.setMarkers x).filterMask = s.filterMask := rfl
@[simp] theorem State.setMarkers_pmps (x : List Marker) : (s.setMarkers x).pmps = s.pmps := rfl
@[simp] theorem State.setMarkers_mem (x : List Marker) : (s.setMarkers x).mem = s.mem := rfl
@[simp] theorem State.setMarkers_clockUs (x : List Marker) : (s.setMarkers x).clockUs = s.clockUs := rfl
@[simp] theorem State.setMarkers_clockDraws (x : List Marker) : (s.setMarkers x).clockDraws = s.clockDraws := rfl
@[simp] theorem State.setMarkers_extLog (x : List Marker) : (s.setMarkers x).extLog = s.extLog := rfl
@[simp] theorem State.setMarkers_queue (x : List Marker) : (s.setMarkers x).queue = s.queue := rfl
@[simp] theorem State.setMarkers_out (x : List Marker) : (s.setMarkers x).out = s.out := rfl

@[simp] theorem State.setFilterMask_phase (x : List Word32) : (s.setFilterMask x).phase = s.phase := rfl
@[simp] theorem State.setFilterMask_cfg (x : List Word32) : (s.setFilterMask x).cfg = s.cfg := rfl
@[simp] theorem State.setFilterMask_bus (x : List Word32) : (s.setFilterMask x).bus = s.bus := rfl
@[simp] theorem State.setFilterMask_mtime (x : List Word32) : (s.setFilterMask x).mtime = s.mtime := rfl
@[simp] theorem State.setFilterMask_mtimecmp (x : List Word32) : (s.setFilterMask x).mtimecmp = s.mtimecmp := rfl
@[simp] theorem State.setFilterMask_mip (x : List Word32) : (s.setFilterMask x).mip = s.mip := rfl
@[simp] theorem State.setFilterMask_plic (x : List Word32) : (s.setFilterMask x).plic = s.plic := rfl
@[simp] theorem State.setFilterMask_contexts (x : List Word32) : (s.setFilterMask x).contexts = s.contexts := rfl
@[simp] theorem State.setFilterMask_markers (x : List Word32) : (s.setFilterMask x).markers = s.markers := rfl
@[simp] theorem State.setFilterMask_filterMask (x : List Word32) : (s.setFilterMask x).filterMask = x := rfl
@[simp] theorem State.setFilterMask_pmps (x : List Word32) : (s.setFilterMask x).pmps = s.pmps := rfl
@[simp] theorem State.setFilterMask_mem (x : List Word32) : (s.setFilterMask x).mem = s.mem := rfl
@[simp] theorem State.setFilterMask_clockUs (x : List Word32) : (s.setFilterMask x).clockUs = s.clockUs := rfl
@[simp] theorem State.setFilterMask_clockDraws (x : List Word32) : (s.setFilterMask x).clockDraws = s.clockDraws := rfl
@[simp] theorem State.setFilterMask_extLog (x : List Word32) : (s.setFilterMask x).extLog = s.extLog := rfl
@[simp] theorem State.setFilterMask_queue (x : List Word32) : (s.setFilterMask x).queue = s.queue := rfl
@[simp] theorem State.setFilterMask_out (x : List Word32) : (s.setFilterMask x).out = s.out := rfl

@[simp] theorem State.setPmps_phase (x : List (List PmpBlock)) : (s.setPmps x).phase = s.phase := rfl
@[simp] theorem State.setPmps_cfg (x : List (List PmpBlock)) : (s.setPmps x).cfg = s.cfg := rfl
@[simp] theorem State.setPmps_bus (x : List (List PmpBlock)) : (s.setPmps x).bus = s.bus := rfl
@[simp] theorem State.setPmps_mtime (x : List (List PmpBlock)) : (s.setPmps x).mtime = s.mtime := rfl
@[simp] theorem State.setPmps_mtimecmp (x : List (List PmpBlock)) : (s.setPmps x).mtimecmp = s.mtimecmp := rfl
@[simp] theorem State.setPmps_mip (x : List (List PmpBlock)) : (s.setPmps x).mip = s.mip := rfl
@[simp] theorem State.setPmps_plic (x : List (List PmpBlock)) : (s.setPmps x).plic = s.plic := rfl
@[simp] theorem State.setPmps_contexts (x : List (List PmpBlock)) : (s.setPmps x).contexts = s.contexts := rfl
@[simp] theorem State.setPmps_markers (x : List (List PmpBlock)) : (s.setPmps x).markers = s.markers := rfl
@[simp] theorem State.setPmps_filterMask (x : List (List PmpBlock)) : (s.setPmps x).filterMask = s.filterMask := rfl
@[simp] theorem State.setPmps_pmps (x : List (List PmpBlock)) : (s.setPmps x).pmps = x := rfl
@[simp] theorem State.setPmps_mem (x : List (List PmpBlock)) : (s.setPmps x).mem = s.mem := rfl
@[simp] theorem State.setPmps_clockUs (x : List (List PmpBlock)) : (s.setPmps x).clockUs = s.clockUs := rfl
@[simp] theorem State.setPmps_clockDraws (x : List (List PmpBlock)) : (s.setPmps x).clockDraws = s.clockDraws := rfl
@[simp] theorem State.setPmps_extLog (x : List (List PmpBlock)) : (s.setPmps x).extLog = s.extLog := rfl
@[simp] theorem State.setPmps_queue (x : List (List PmpBlock)) : (s.setPmps x).queue = s.queue := rfl
@[simp] theorem State.setPmps_out (x : List (List PmpBlock)) : (s.setPmps x).out = s.out := rfl

@[simp] theorem State.setMem_phase (x : Memory) : (s.setMem x).phase = s.phase := rfl
@[simp] theorem State.setMem_cfg (x : Memory) : (s.setMem x).cfg = s.cfg := rfl
@[simp] theorem State.setMem_bus (x : Memory) : (s.setMem x).bus = s.bus := rfl
@[simp] theorem State.setMem_mtime (x : Memory) : (s.setMem x).mtime = s.mtime := rfl
@[simp] theorem State.setMem_mtimecmp (x : Memory) : (s.setMem x).mtimecmp = s.mtimecmp := rfl
@[simp] theorem State.setMem_mip (x : Memory) : (s.setMem x).mip = s.mip := rfl
@[simp] theorem State.setMem_plic (x : Memory) : (s.setMem x).plic = s.plic := rfl
@[simp] theorem State.setMem_contexts (x : Memory) : (s.setMem x).contexts = s.contexts := rfl
@[simp] theorem State.setMem_markers (x : Memory) : (s.setMem x).markers = s.markers := rfl
@[simp] theorem State.setMem_filterMask (x : Memory) : (s.setMem x).filterMask = s.filterMask := rfl
@[simp] theorem State.setMem_pmps (x : Memory) : (s.setMem x).pmps = s.pmps := rfl
@[simp] theorem State.setMem_mem (x : Memory) : (s.setMem x).mem = x := rfl
@[simp] theorem State.setMem_clockUs (x : Memory) : (s.setMem x).clockUs = s.clockUs := rfl
@[simp] theorem State.setMem_clockDraws (x : Memory) : (s.setMem x).clockDraws = s.clockDraws := rfl
@[simp] theorem State.setMem_extLog (x : Memory) : (s.setMem x).extLog = s.extLog := rfl
@[simp] theorem State.setMem_queue (x : Memory) : (s.setMem x).queue = s.queue := rfl
@[simp] theorem State.setMem_out (x : Memory) : (s.setMem x).out = s.out := rfl

@[simp] theorem State.setClockUs_phase (x : Nat) : (s.setClockUs x).phase = s.phase := rfl
@[simp] theorem State.setClockUs_cfg (x : Nat) : (s.setClockUs x).cfg = s.cfg := rfl
@[simp] theorem State.setClockUs_bus (x : Nat) : (s.setClockUs x).bus = s.bus := rfl
@[simp] theorem State.setClockUs_mtime (x : Nat) : (s.setClockUs x).mtime = s.mtime := rfl
@[simp] theorem State.setClockUs_mtimecmp (x : Nat) : (s.setClockUs x).mtimecmp = s.mtimecmp := rfl
@[simp] theorem State.setClockUs_mip (x : Nat) : (s.setClockUs x).mip = s.mip := rfl
@[simp] theorem State.setClockUs_plic (x : Nat) : (s.setClockUs x).plic = s.plic := rfl
@[simp] theorem State.setClockUs_contexts (x : Nat) : (s.setClockUs x).contexts = s.contexts := rfl
@[simp] theorem State.setClockUs_markers (x : Nat) : (s.setClockUs x).markers = s.markers := rfl
@[simp] theorem State.setClockUs_filterMask (x : Nat) : (s.setClockUs x).filterMask = s.filterMask := rfl
@[simp] theorem State.setClockUs_pmps (x : Nat) : (s.setClockUs x).pmps = s.pmps := rfl
@[simp] theorem State.setClockUs_mem (x : Nat) : (s.setClockUs x).mem = s.mem := rfl
@[simp] theorem State.setClockUs_clockUs (x : Nat) : (s.setClockUs x).clockUs = x := rfl
@[simp] theorem State.setClockUs_clockDraws (x : Nat) : (s.setClockUs x).clockDraws = s.clockDraws := rfl
@[simp] theorem State.setClockUs_extLog (x : Nat) : (s.setClockUs x).extLog = s.extLog := rfl
@[simp] theorem State.setClockUs_queue (x : Nat) : (s.setClockUs x).queue = s.queue := rfl
@[simp] theorem State.setClockUs_out (x : Nat) : (s.setClockUs x).out = s.out := rfl

@[simp] theorem State.setClockDraws_phase (x : Nat) : (s.setClockDraws x).phase = s.phase := rfl
@[simp] theorem State.setClockDraws_cfg (x : Nat) : (s.setClockDraws x).cfg = s.cfg := rfl
@[simp] theorem State.setClockDraws_bus (x : Nat) : (s.setClockDraws x).bus = s.bus := rfl
@[simp] theorem State.setClockDraws_mtime (x : Nat) : (s.setClockDraws x).mtime = s.mtime := rfl
@[simp] theorem State.setClockDraws_mtimecmp (x : Nat) : (s.setClockDraws x).mtimecmp = s.mtimecmp := rfl
@[simp] theorem State.setClockDraws_mip (x : Nat) : (s.setClockDraws x).mip = s.mip := rfl
@[simp] theorem State.setClockDraws_plic (x : Nat) : (s.setClockDraws x).plic = s.plic := rfl
@[simp] theorem State.setClockDraws_contexts (x : Nat) : (s.setClockDraws x).contexts = s.contexts := rfl
@[simp] theorem State.setClockDraws_markers (x : Nat) : (s.setClockDraws x).markers = s.markers := rfl
@[simp] theorem State.setClockDraws_filterMask (x : Nat) : (s.setClockDraws x).filterMask = s.filterMask := rfl
@[simp] theorem State.setClockDraws_pmps (x : Nat) : (s.setClockDraws x).pmps = s.pmps := rfl
@[simp] theorem State.setClockDraws_mem (x : Nat) : (s.setClockDraws x).mem = s.mem := rfl
@[simp] theorem State.setClockDraws_clockUs (x : Nat) : (s.setClockDraws x).clockUs = s.clockUs := rfl
@[simp] theorem State.setClockDraws_clockDraws (x : Nat) : (s.setClockDraws x).clockDraws = x := rfl
@[simp] theorem State.setClockDraws_extLog (x : Nat) : (s.setClockDraws x).extLog = s.extLog := rfl
@[simp] theorem State.setClockDraws_queue (x : Nat) : (s.setClockDraws x).queue = s.queue := rfl
@[simp] theorem State.setClockDraws_out (x : Nat) : (s.setClockDraws x).out = s.out := rfl

@[simp] theorem State.setExtLog_phase (x : List ExtAccess) : (s.setExtLog x).phase = s.phase := rfl
@[simp] theorem State.setExtLog_cfg (x : List ExtAccess) : (s.setExtLog x).cfg = s.cfg := rfl
@[simp] theorem State.setExtLog_bus (x : List ExtAccess) : (s.setExtLog x).bus = s.bus := rfl
@[simp] theorem State.setExtLog_mtime (x : List ExtAccess) : (s.setExtLog x).mtime = s.mtime := rfl
@[simp] theorem State.setExtLog_mtimecmp (x : List ExtAccess) : (s.setExtLog x).mtimecmp = s.mtimecmp := rfl
@[simp] theorem State.setExtLog_mip (x : List ExtAccess) : (s.setExtLog x).mip = s.mip := rfl
@[simp] theorem State.setExtLog_plic (x : List ExtAccess) : (s.setExtLog x).plic = s.plic := rfl
@[simp] theorem State.setExtLog_contexts (x : List ExtAccess) : (s.setExtLog x).contexts = s.contexts := rfl
@[simp] theorem State.setExtLog_markers (x : List ExtAccess) : (s.setExtLog x).markers = s.markers := rfl
@[simp] theorem State.setExtLog_filterMask (x : List ExtAccess) : (s.setExtLog x).filterMask = s.filterMask := rfl
@[simp] theorem State.setExtLog_pmps (x : List ExtAccess) : (s.setExtLog x).pmps = s.pmps := rfl
@[simp] theorem State.setExtLog_mem (x : List ExtAccess) : (s.setExtLog x).mem = s.mem := rfl
@[simp] theorem State.setExtLog_clockUs (x : List ExtAccess) : (s.setExtLog x).clockUs = s.clockUs := rfl
@[simp] theorem State.setExtLog_clockDraws (x : List ExtAccess) : (s.setExtLog x).clockDraws = s.clockDraws := rfl
@[simp] theorem State.setExtLog_extLog (x : List ExtAccess) : (s.setExtLog x).extLog = x := rfl
@[simp] theorem State.setExtLog_queue (x : List ExtAccess) : (s.setExtLog x).queue = s.queue := rfl
@[simp] theorem State.setExtLog_out (x : List ExtAccess) : (s.setExtLog x).out = s.out := rfl

@[simp] theorem State.setQueue_phase (x : List Bytes) : (s.setQueue x).phase = s.phase := rfl
@[simp] theorem State.setQueue_cfg (x : List Bytes) : (s.setQueue x).cfg = s.cfg := rfl
@[simp] theorem State.setQueue_bus (x : List Bytes) : (s.setQueue x).bus = s.bus := rfl
@[simp] theorem State.setQueue_mtime (x : List Bytes) : (s.setQueue x).mtime = s.mtime := rfl
@[simp] theorem State.setQueue_mtimecmp (x : List Bytes) : (s.setQueue x).mtimecmp = s.mtimecmp := rfl
@[simp] theorem State.setQueue_mip (x : List Bytes) : (s.setQueue x).mip = s.mip := rfl
@[simp] theorem State.setQueue_plic (x : List Bytes) : (s.setQueue x).plic = s.plic := rfl
@[simp] theorem State.setQueue_contexts (x : List Bytes) : (s.setQueue x).contexts = s.contexts := rfl
@[simp] theorem State.setQueue_markers (x : List Bytes) : (s.setQueue x).markers = s.markers := rfl
@[simp] theorem State.setQueue_filterMask (x : List Bytes) : (s.setQueue x).filterMask = s.filterMask := rfl
@[simp] theorem State.setQueue_pmps (x : List Bytes) : (s.setQueue x).pmps = s.pmps := rfl
@[simp] theorem State.setQueue_mem (x : List Bytes) : (s.setQueue x).mem = s.mem := rfl
@[simp] theorem State.setQueue_clockUs (x : List Bytes) : (s.setQueue x).clockUs = s.clockUs := rfl
@[simp] theorem State.setQueue_clockDraws (x : List Bytes) : (s.setQueue x).clockDraws = s.clockDraws := rfl
@[simp] theorem State.setQueue_extLog (x : List Bytes) : (s.setQueue x).extLog = s.extLog := rfl
@[simp] theorem State.setQueue_queue (x : List Bytes) : (s.setQueue x).queue = x := rfl
@[simp] theorem State.setQueue_out (x : List Bytes) : (s.setQueue x).out = s.out := rfl

@[simp] theorem State.setOut_phase (x : Output) : (s.setOut x).phase = s.phase := rfl
@[simp] theorem State.setOut_cfg (x : Output) : (s.setOut x).cfg = s.cfg := rfl
@[simp] theorem State.setOut_bus (x : Output) : (s.setOut x).bus = s.bus := rfl
@[simp] theorem State.setOut_mtime (x : Output) : (s.setOut x).mtime = s.mtime := rfl
@[simp] theorem State.setOut_mtimecmp (x : Output) : (s.setOut x).mtimecmp = s.mtimecmp := rfl
@[simp] theorem State.setOut_mip (x : Output) : (s.setOut x).mip = s.mip := rfl
@[simp] theorem State.setOut_plic (x : Output) : (s.setOut x).plic = s.plic := rfl
@[simp] theorem State.setOut_contexts (x : Output) : (s.setOut x).contexts = s.contexts := rfl
@[simp] theorem State.setOut_markers (x : Output) : (s.setOut x).markers = s.markers := rfl
@[simp] theorem State.setOut_filterMask (x : Output) : (s.setOut x).filterMask = s.filterMask := rfl
@[simp] theorem State.setOut_pmps (x : Output) : (s.setOut x).pmps = s.pmps := rfl
@[simp] theorem State.setOut_mem (x : Output) : (s.setOut x).mem = s.mem := rfl
@[simp] theorem State.setOut_clockUs (x : Output) : (s.setOut x).clockUs = s.clockUs := rfl
@[simp] theorem State.setOut_clockDraws (x : Output) : (s.setOut x).clockDraws = s.clockDraws := rfl
@[simp] theorem State.setOut_extLog (x : Output) : (s.setOut x).extLog = s.extLog := rfl
@[simp] theorem State.setOut_queue (x : Output) : (s.setOut x).queue = s.queue := rfl
@[simp] theorem State.setOut_out (x : Output) : (s.setOut x).out = x := rfl

@[simp] theorem State.raiseAccessFault_eq (h : Nat) (k : FaultKind) (a : Word64) :
    s.raiseAccessFault h k a = s.setOut (.accessFault ⟨h, k, a⟩) := rfl

@[simp] theorem State.setMarker_eq (m : Nat) (x : Marker) : s.setMarker m x = s.setMarkers (s.markers.set m x) := rfl

@[simp] theorem State.setMask_eq (f : Nat) (x : Word32) :
    s.setMask f x = s.setFilterMask (s.filterMask.set f x) := rfl

@[simp] theorem State.setBlock_eq (p k : Nat) (x : PmpBlock) :
    s.setBlock p k x = s.setPmps (s.pmps.set p ((s.pmps.getD p []).set k x)) := rfl

end Sys2Proof.Machine
end

