-- ==== Sys2Proof/Laws/Access.lean ====
section
/-! SUPPORT. How an access ends (60_exceptions.md R320) and what a port forwards (40_bus.md R161). -/

namespace Sys2Proof.Machine

/-- The end of a load: its bytes, or the access fault, and nothing else of the state. -/
theorem finishLoad_eq (h : Nat) (k : LoadKind) (a : Word64) (x : Served) :
    finishLoad h k a x =
      .next (x.1.setOut (match x.2 with | some b => .loaded b | none => .accessFault ⟨h, faultKind k, a⟩)) := by
  obtain ⟨s, _ | b⟩ := x <;> rfl

/-- The end of a store: `true`, or the access fault, and nothing else of the state. -/
theorem finishStore_eq (h : Nat) (a : Word64) (x : Served) :
    finishStore h a x =
      .next (x.1.setOut (match x.2 with | some _ => .stored | none => .accessFault ⟨h, .store, a⟩)) := by
  obtain ⟨s, _ | b⟩ := x <;> rfl

theorem forwards_eq_true (c : Config) (d : Device) (off len : Nat) :
    forwards c d off len = true ↔ ∃ size, deviceSize c d = some size ∧ len ≠ 0 ∧ off + len ≤ size := by
  unfold forwards
  split <;> simp_all

/-- A forwarded load at a port is the device's. -/
theorem portLoad_of_forwards (d : Device) (r : LoadReq) (serve : State → Served) (s : State)
    (h : forwards s.cfg d r.off r.len = true) :
    portLoad d r serve s = finishLoad r.hart r.kind (s.portAddr d r.off) (serve s) := by
  simp [portLoad, h]

/-- A forwarded store at a port is the device's. -/
theorem portStore_of_forwards (d : Device) (r : StoreReq) (serve : State → Served) (s : State)
    (h : forwards s.cfg d r.off r.data.length = true) :
    portStore d r serve s = finishStore r.hart (s.portAddr d r.off) (serve s) := by
  simp [portStore, h]

/-- A load the bus would not forward is an access fault and changes nothing. -/
theorem portLoad_of_not_forwards (d : Device) (r : LoadReq) (serve : State → Served) (s : State)
    (h : forwards s.cfg d r.off r.len = false) :
    portLoad d r serve s = .next (s.setOut (.accessFault ⟨r.hart, faultKind r.kind, s.portAddr d r.off⟩)) := by
  simp [portLoad, h, refuse, finishLoad]

/-- A store the bus would not forward is an access fault and changes nothing. -/
theorem portStore_of_not_forwards (d : Device) (r : StoreReq) (serve : State → Served) (s : State)
    (h : forwards s.cfg d r.off r.data.length = false) :
    portStore d r serve s = .next (s.setOut (.accessFault ⟨r.hart, .store, s.portAddr d r.off⟩)) := by
  simp [portStore, h, refuse, finishStore]

end Sys2Proof.Machine
end

