-- ==== Sys2Proof/Laws/Flags.lean ====
section
/-! SUPPORT. The flag computations touch the `mip` bits and nothing else; what each does to one hart's bits. -/

namespace Sys2Proof.Machine

variable (s : State)

@[simp] theorem recomputeMtip_phase  : (recomputeMtip s).phase = s.phase := rfl
@[simp] theorem recomputeMtip_cfg  : (recomputeMtip s).cfg = s.cfg := rfl
@[simp] theorem recomputeMtip_bus  : (recomputeMtip s).bus = s.bus := rfl
@[simp] theorem recomputeMtip_mtime  : (recomputeMtip s).mtime = s.mtime := rfl
@[simp] theorem recomputeMtip_mtimecmp  : (recomputeMtip s).mtimecmp = s.mtimecmp := rfl
@[simp] theorem recomputeMtip_plic  : (recomputeMtip s).plic = s.plic := rfl
@[simp] theorem recomputeMtip_contexts  : (recomputeMtip s).contexts = s.contexts := rfl
@[simp] theorem recomputeMtip_markers  : (recomputeMtip s).markers = s.markers := rfl
@[simp] theorem recomputeMtip_filterMask  : (recomputeMtip s).filterMask = s.filterMask := rfl
@[simp] theorem recomputeMtip_pmps  : (recomputeMtip s).pmps = s.pmps := rfl
@[simp] theorem recomputeMtip_mem  : (recomputeMtip s).mem = s.mem := rfl
@[simp] theorem recomputeMtip_clockUs  : (recomputeMtip s).clockUs = s.clockUs := rfl
@[simp] theorem recomputeMtip_clockDraws  : (recomputeMtip s).clockDraws = s.clockDraws := rfl
@[simp] theorem recomputeMtip_extLog  : (recomputeMtip s).extLog = s.extLog := rfl
@[simp] theorem recomputeMtip_queue  : (recomputeMtip s).queue = s.queue := rfl
@[simp] theorem recomputeMtip_out  : (recomputeMtip s).out = s.out := rfl

@[simp] theorem storeMsip_phase (off : Nat) (b : Bytes) : (storeMsip off b s).phase = s.phase := rfl
@[simp] theorem storeMsip_cfg (off : Nat) (b : Bytes) : (storeMsip off b s).cfg = s.cfg := rfl
@[simp] theorem storeMsip_bus (off : Nat) (b : Bytes) : (storeMsip off b s).bus = s.bus := rfl
@[simp] theorem storeMsip_mtime (off : Nat) (b : Bytes) : (storeMsip off b s).mtime = s.mtime := rfl
@[simp] theorem storeMsip_mtimecmp (off : Nat) (b : Bytes) : (storeMsip off b s).mtimecmp = s.mtimecmp := rfl
@[simp] theorem storeMsip_plic (off : Nat) (b : Bytes) : (storeMsip off b s).plic = s.plic := rfl
@[simp] theorem storeMsip_contexts (off : Nat) (b : Bytes) : (storeMsip off b s).contexts = s.contexts := rfl
@[simp] theorem storeMsip_markers (off : Nat) (b : Bytes) : (storeMsip off b s).markers = s.markers := rfl
@[simp] theorem storeMsip_filterMask (off : Nat) (b : Bytes) : (storeMsip off b s).filterMask = s.filterMask := rfl
@[simp] theorem storeMsip_pmps (off : Nat) (b : Bytes) : (storeMsip off b s).pmps = s.pmps := rfl
@[simp] theorem storeMsip_mem (off : Nat) (b : Bytes) : (storeMsip off b s).mem = s.mem := rfl
@[simp] theorem storeMsip_clockUs (off : Nat) (b : Bytes) : (storeMsip off b s).clockUs = s.clockUs := rfl
@[simp] theorem storeMsip_clockDraws (off : Nat) (b : Bytes) : (storeMsip off b s).clockDraws = s.clockDraws := rfl
@[simp] theorem storeMsip_extLog (off : Nat) (b : Bytes) : (storeMsip off b s).extLog = s.extLog := rfl
@[simp] theorem storeMsip_queue (off : Nat) (b : Bytes) : (storeMsip off b s).queue = s.queue := rfl
@[simp] theorem storeMsip_out (off : Nat) (b : Bytes) : (storeMsip off b s).out = s.out := rfl

@[simp] theorem update_phase  : (update s).phase = s.phase := rfl
@[simp] theorem update_cfg  : (update s).cfg = s.cfg := rfl
@[simp] theorem update_bus  : (update s).bus = s.bus := rfl
@[simp] theorem update_mtime  : (update s).mtime = s.mtime := rfl
@[simp] theorem update_mtimecmp  : (update s).mtimecmp = s.mtimecmp := rfl
@[simp] theorem update_plic  : (update s).plic = s.plic := rfl
@[simp] theorem update_contexts  : (update s).contexts = s.contexts := rfl
@[simp] theorem update_markers  : (update s).markers = s.markers := rfl
@[simp] theorem update_filterMask  : (update s).filterMask = s.filterMask := rfl
@[simp] theorem update_pmps  : (update s).pmps = s.pmps := rfl
@[simp] theorem update_mem  : (update s).mem = s.mem := rfl
@[simp] theorem update_clockUs  : (update s).clockUs = s.clockUs := rfl
@[simp] theorem update_clockDraws  : (update s).clockDraws = s.clockDraws := rfl
@[simp] theorem update_extLog  : (update s).extLog = s.extLog := rfl
@[simp] theorem update_queue  : (update s).queue = s.queue := rfl
@[simp] theorem update_out  : (update s).out = s.out := rfl

/-- R181 at one hart. -/
theorem recomputeMtip_mip (i : Nat) (m : Mip) (h : s.mip[i]? = some m) :
    (recomputeMtip s).mip[i]? =
      some (if i < s.cfg.nHarts then { m with mtip := decide (s.timecmp i ≤ s.mtime) } else m) := by
  simp [recomputeMtip, h]

@[simp] theorem recomputeMtip_mip_length : (recomputeMtip s).mip.length = s.mip.length := by
  simp [recomputeMtip]

@[simp] theorem storeMsip_mip_length (off : Nat) (b : Bytes) : (storeMsip off b s).mip.length = s.mip.length := by
  simp [storeMsip]

theorem driveContext_length (mip : List Mip) (c : Context) : (driveContext s mip c).length = mip.length := by
  simp [driveContext]

@[simp] theorem update_mip_length : (update s).mip.length = s.mip.length := by
  have h : ∀ (cs : List Context) (mip : List Mip), (cs.foldl (driveContext s) mip).length = mip.length := by
    intro cs
    induction cs with
    | nil => intro mip; rfl
    | cons c cs ih => intro mip; rw [List.foldl_cons, ih, driveContext_length]
  exact h _ _

/-- R234, R238: what a context's line leaves as it was. -/
@[simp] theorem driveLine_msip (md : Mode) (l : Bool) (m : Mip) : (driveLine md l m).msip = m.msip := by
  cases md <;> rfl

@[simp] theorem driveLine_mtip (md : Mode) (l : Bool) (m : Mip) : (driveLine md l m).mtip = m.mtip := by
  cases md <;> rfl

theorem driveLine_meip (md : Mode) (l : Bool) (m : Mip) :
    (driveLine md l m).meip = if md = .m then l else m.meip := by
  cases md <;> rfl

theorem driveLine_seip (md : Mode) (l : Bool) (m : Mip) :
    (driveLine md l m).seip = if md = .s then l else m.seip := by
  cases md <;> rfl

/-! One hart's bits, by its number. -/

@[simp] theorem State.setOut_mipOf (o : Output) (h : Nat) : (s.setOut o).mipOf h = s.mipOf h := rfl

/-- R181 at any hart number: MSIP, SEIP and MEIP stay. -/
theorem recomputeMtip_mipOf (h : Nat) :
    (recomputeMtip s).mipOf h = s.mipOf h ∨
      (recomputeMtip s).mipOf h = { s.mipOf h with mtip := decide (s.timecmp h ≤ s.mtime) } := by
  simp only [State.mipOf, recomputeMtip, State.setMip_mip, List.getD_eq_getElem?_getD, List.getElem?_mapIdx]
  cases s.mip[h]? with
  | none => exact .inl rfl
  | some m =>
    by_cases hh : h < s.cfg.nHarts
    · exact .inr (by simp [hh])
    · exact .inl (by simp [hh])

@[simp] theorem recomputeMtip_msip (h : Nat) : ((recomputeMtip s).mipOf h).msip = (s.mipOf h).msip := by
  rcases recomputeMtip_mipOf s h with e | e <;> rw [e]

@[simp] theorem recomputeMtip_seip (h : Nat) : ((recomputeMtip s).mipOf h).seip = (s.mipOf h).seip := by
  rcases recomputeMtip_mipOf s h with e | e <;> rw [e]

@[simp] theorem recomputeMtip_meip (h : Nat) : ((recomputeMtip s).mipOf h).meip = (s.mipOf h).meip := by
  rcases recomputeMtip_mipOf s h with e | e <;> rw [e]

/-- R181 at a hart of the machine: MTIP says whether time has reached the compare value. -/
theorem recomputeMtip_mtip (h : Nat) (hn : h < s.cfg.nHarts) (hl : s.mip.length = s.cfg.nHarts) :
    ((recomputeMtip s).mipOf h).mtip = decide (s.timecmp h ≤ s.mtime) := by
  have hh : h < s.mip.length := hl ▸ hn
  simp only [State.mipOf, recomputeMtip, State.setMip_mip, List.getD_eq_getElem?_getD, List.getElem?_mapIdx]
  simp [hh, hn]

/-- R184 at any hart number: only MSIP may differ. -/
theorem storeMsip_mipOf (off : Nat) (b : Bytes) (h : Nat) :
    (storeMsip off b s).mipOf h = { s.mipOf h with msip := ((storeMsip off b s).mipOf h).msip } := by
  simp only [State.mipOf, storeMsip, State.setMip_mip, List.getD_eq_getElem?_getD, List.getElem?_mapIdx]
  cases s.mip[h]? with
  | none => rfl
  | some m =>
    simp only [Option.map_some, Option.getD_some]
    split <;> rfl

/-- R184 at a hart of the machine: MSIP becomes bit 0 of byte 0 of its word, where the store covers that byte. -/
theorem storeMsip_msip (off : Nat) (b : Bytes) (h : Nat) (hl : s.mip.length = s.cfg.nHarts) :
    ((storeMsip off b s).mipOf h).msip =
      if h < s.cfg.nHarts ∧ off ≤ 4 * h ∧ 4 * h < off + b.length then (b.getD (4 * h - off) 0#8).getLsbD 0
      else (s.mipOf h).msip := by
  simp only [State.mipOf, storeMsip, State.setMip_mip, List.getD_eq_getElem?_getD, List.getElem?_mapIdx]
  by_cases hn : h < s.cfg.nHarts
  · simp only [List.getElem?_eq_getElem (hl ▸ hn), Option.map_some, Option.getD_some, hn, true_and]
    split <;> rfl
  · simp [hn, hl]

theorem driveContext_getD (mip : List Mip) (c : Context) (h : Nat) (d : Mip) :
    (driveContext s mip c).getD h d =
      if h = c.hartid ∧ h < mip.length then driveLine c.mode (decide (best s c.addrid ≠ 0)) (mip.getD h d)
      else mip.getD h d := by
  simp only [driveContext, List.getD_eq_getElem?_getD, List.getElem?_modify]
  by_cases hl : h < mip.length
  · by_cases hc : c.hartid = h
    · simp [hl, hc]
    · simp [hl, hc, Ne.symm hc]
  · simp [hl]

/-- R234 at any hart number: MSIP and MTIP stay. -/
theorem update_mipOf (h : Nat) :
    ((update s).mipOf h).msip = (s.mipOf h).msip ∧ ((update s).mipOf h).mtip = (s.mipOf h).mtip := by
  have key : ∀ (cs : List Context) (mip : List Mip) (d : Mip),
      ((cs.foldl (driveContext s) mip).getD h d).msip = (mip.getD h d).msip
        ∧ ((cs.foldl (driveContext s) mip).getD h d).mtip = (mip.getD h d).mtip := by
    intro cs
    induction cs with
    | nil => intro mip d; exact ⟨rfl, rfl⟩
    | cons c cs ih =>
      intro mip d
      rw [List.foldl_cons, (ih _ _).1, (ih _ _).2, driveContext_getD]
      split <;> simp
  exact key _ _ _

@[simp] theorem update_msip (h : Nat) : ((update s).mipOf h).msip = (s.mipOf h).msip := (update_mipOf s h).1

@[simp] theorem update_mtip (h : Nat) : ((update s).mipOf h).mtip = (s.mipOf h).mtip := (update_mipOf s h).2

end Sys2Proof.Machine
end

