-- ==== Sys2Proof/Laws/Clint.lean ====
section
/-! SUPPORT. The CLINT: what the sample and the access frame leave as it was, and that every row of it is the device's
port (30_encoding.md R122, R123). -/

namespace Sys2Proof.Machine

variable (s : State)

@[simp] theorem sample_phase : (sample s).phase = s.phase := rfl
@[simp] theorem sample_cfg : (sample s).cfg = s.cfg := rfl
@[simp] theorem sample_bus : (sample s).bus = s.bus := rfl
@[simp] theorem sample_mtimecmp : (sample s).mtimecmp = s.mtimecmp := rfl
@[simp] theorem sample_mip : (sample s).mip = s.mip := rfl
@[simp] theorem sample_plic : (sample s).plic = s.plic := rfl
@[simp] theorem sample_contexts : (sample s).contexts = s.contexts := rfl
@[simp] theorem sample_markers : (sample s).markers = s.markers := rfl
@[simp] theorem sample_filterMask : (sample s).filterMask = s.filterMask := rfl
@[simp] theorem sample_pmps : (sample s).pmps = s.pmps := rfl
@[simp] theorem sample_mem : (sample s).mem = s.mem := rfl
@[simp] theorem sample_extLog : (sample s).extLog = s.extLog := rfl
@[simp] theorem sample_queue : (sample s).queue = s.queue := rfl
@[simp] theorem sample_out : (sample s).out = s.out := rfl

@[simp] theorem sampleIfRealTime_phase  : (sampleIfRealTime s).phase = s.phase := by
  unfold sampleIfRealTime; split <;> rfl
@[simp] theorem sampleIfRealTime_cfg  : (sampleIfRealTime s).cfg = s.cfg := by
  unfold sampleIfRealTime; split <;> rfl
@[simp] theorem sampleIfRealTime_bus  : (sampleIfRealTime s).bus = s.bus := by
  unfold sampleIfRealTime; split <;> rfl
@[simp] theorem sampleIfRealTime_mtimecmp  : (sampleIfRealTime s).mtimecmp = s.mtimecmp := by
  unfold sampleIfRealTime; split <;> rfl
@[simp] theorem sampleIfRealTime_mip  : (sampleIfRealTime s).mip = s.mip := by
  unfold sampleIfRealTime; split <;> rfl
@[simp] theorem sampleIfRealTime_plic  : (sampleIfRealTime s).plic = s.plic := by
  unfold sampleIfRealTime; split <;> rfl
@[simp] theorem sampleIfRealTime_contexts  : (sampleIfRealTime s).contexts = s.contexts := by
  unfold sampleIfRealTime; split <;> rfl
@[simp] theorem sampleIfRealTime_markers  : (sampleIfRealTime s).markers = s.markers := by
  unfold sampleIfRealTime; split <;> rfl
@[simp] theorem sampleIfRealTime_filterMask  : (sampleIfRealTime s).filterMask = s.filterMask := by
  unfold sampleIfRealTime; split <;> rfl
@[simp] theorem sampleIfRealTime_pmps  : (sampleIfRealTime s).pmps = s.pmps := by
  unfold sampleIfRealTime; split <;> rfl
@[simp] theorem sampleIfRealTime_mem  : (sampleIfRealTime s).mem = s.mem := by
  unfold sampleIfRealTime; split <;> rfl
@[simp] theorem sampleIfRealTime_extLog  : (sampleIfRealTime s).extLog = s.extLog := by
  unfold sampleIfRealTime; split <;> rfl
@[simp] theorem sampleIfRealTime_queue  : (sampleIfRealTime s).queue = s.queue := by
  unfold sampleIfRealTime; split <;> rfl
@[simp] theorem sampleIfRealTime_out  : (sampleIfRealTime s).out = s.out := by
  unfold sampleIfRealTime; split <;> rfl

@[simp] theorem tickTime_phase (inc : Word64) : (tickTime inc s).phase = s.phase := by
  unfold tickTime; split <;> rfl
@[simp] theorem tickTime_cfg (inc : Word64) : (tickTime inc s).cfg = s.cfg := by
  unfold tickTime; split <;> rfl
@[simp] theorem tickTime_bus (inc : Word64) : (tickTime inc s).bus = s.bus := by
  unfold tickTime; split <;> rfl
@[simp] theorem tickTime_mtimecmp (inc : Word64) : (tickTime inc s).mtimecmp = s.mtimecmp := by
  unfold tickTime; split <;> rfl
@[simp] theorem tickTime_mip (inc : Word64) : (tickTime inc s).mip = s.mip := by
  unfold tickTime; split <;> rfl
@[simp] theorem tickTime_plic (inc : Word64) : (tickTime inc s).plic = s.plic := by
  unfold tickTime; split <;> rfl
@[simp] theorem tickTime_contexts (inc : Word64) : (tickTime inc s).contexts = s.contexts := by
  unfold tickTime; split <;> rfl
@[simp] theorem tickTime_markers (inc : Word64) : (tickTime inc s).markers = s.markers := by
  unfold tickTime; split <;> rfl
@[simp] theorem tickTime_filterMask (inc : Word64) : (tickTime inc s).filterMask = s.filterMask := by
  unfold tickTime; split <;> rfl
@[simp] theorem tickTime_pmps (inc : Word64) : (tickTime inc s).pmps = s.pmps := by
  unfold tickTime; split <;> rfl
@[simp] theorem tickTime_mem (inc : Word64) : (tickTime inc s).mem = s.mem := by
  unfold tickTime; split <;> rfl
@[simp] theorem tickTime_extLog (inc : Word64) : (tickTime inc s).extLog = s.extLog := by
  unfold tickTime; split <;> rfl
@[simp] theorem tickTime_queue (inc : Word64) : (tickTime inc s).queue = s.queue := by
  unfold tickTime; split <;> rfl
@[simp] theorem tickTime_out (inc : Word64) : (tickTime inc s).out = s.out := by
  unfold tickTime; split <;> rfl

/-- D49: a reading of the wall clock is not before the last one and not before the anchor. -/
theorem nextClock_ge : s.clockUs ≤ s.nextClock ∧ s.cfg.anchorUs ≤ s.nextClock := by
  unfold State.nextClock
  omega

/-- The frame answers what its operation answers, on the sampled state, and recomputes MTIP after it (R182). -/
theorem clintFrame_eq (op : State → Served) :
    clintFrame op s = (recomputeMtip (op (sampleIfRealTime s)).1, (op (sampleIfRealTime s)).2) := rfl

/-- The row is the port's access. -/
theorem execClintLdMsip_eq_port (r : LoadReq) : execClintLdMsip r s = portLoad .clint r (clintLoad r) s := by
  unfold execClintLdMsip portLoad
  congr 2
  beta_reduce
  split
  · next h => simp [clintLoad, clintFrame, h]
  · rfl

/-- The row is the port's access. -/
theorem execClintStMsip_eq_port (r : StoreReq) : execClintStMsip r s = portStore .clint r (clintStore r) s := by
  unfold execClintStMsip portStore
  congr 2
  beta_reduce
  split
  · next h => simp [clintStore, clintFrame, h]
  · rfl

/-- The row is the port's access. -/
theorem execClintLdMtimecmp_eq_port (r : LoadReq) : execClintLdMtimecmp r s = portLoad .clint r (clintLoad r) s := by
  unfold execClintLdMtimecmp portLoad
  congr 2
  beta_reduce
  split
  · next h => simp [clintLoad, clintFrame, h]
  · rfl

/-- The row is the port's access. -/
theorem execClintStMtimecmp_eq_port (r : StoreReq) : execClintStMtimecmp r s = portStore .clint r (clintStore r) s := by
  unfold execClintStMtimecmp portStore
  congr 2
  beta_reduce
  split
  · next h => simp [clintStore, clintFrame, h]
  · rfl

/-- The row is the port's access. -/
theorem execClintLdMtime_eq_port (r : LoadReq) : execClintLdMtime r s = portLoad .clint r (clintLoad r) s := by
  unfold execClintLdMtime portLoad
  congr 2
  beta_reduce
  split
  · next h => simp [clintLoad, clintFrame, h]
  · rfl

/-- The row is the port's access. -/
theorem execClintStMtime_eq_port (r : StoreReq) : execClintStMtime r s = portStore .clint r (clintStore r) s := by
  unfold execClintStMtime portStore
  congr 2
  beta_reduce
  split
  · next h => simp [clintStore, clintFrame, h]
  · rfl

/-- The row is the port's access. -/
theorem execClintLdReserved_eq_port (r : LoadReq) : execClintLdReserved r s = portLoad .clint r (clintLoad r) s := by
  unfold execClintLdReserved portLoad
  congr 2
  beta_reduce
  split
  · next h => simp [clintLoad, clintFrame, h]
  · rfl

/-- The row is the port's access. -/
theorem execClintStReserved_eq_port (r : StoreReq) : execClintStReserved r s = portStore .clint r (clintStore r) s := by
  unfold execClintStReserved portStore
  congr 2
  beta_reduce
  split
  · next h => simp [clintStore, clintFrame, h]
  · rfl

end Sys2Proof.Machine
end

