-- ==== Sys2Proof/Laws/Construct.lean ====
section
/-! SUPPORT. Construction: what accepted parameters are (00_scope.md R11, 60_exceptions.md R322). -/

namespace Sys2Proof.Machine

/-- A chain of checks has no error exactly when no check fails. -/
theorem ite_some_eq_none {p : Prop} [Decidable p] {e : ConfigError} {o : Option ConfigError} :
    (if p then some e else o) = none ↔ ¬p ∧ o = none := by
  by_cases h : p <;> simp [h]

/-- The parameters construction accepts (R11, R264, R276, R282, R303). -/
theorem parameterError_eq_none (c : Config) (A : Nat) :
    parameterError c A = none ↔
      (1 ≤ c.nHarts ∧ c.nHarts ≤ 4095) ∧ c.freqHz ≠ 0
        ∧ (c.mtimecmpReset.length = c.nHarts ∧ c.mipReset.length = c.nHarts ∧ c.markerWidInit.length = c.nHarts)
        ∧ c.numSources ≠ 0 ∧ c.numPriorities < 2 ^ 32 ∧ (splitCommas c.hartConfig).length ≤ c.nHarts
        ∧ plicLayoutOk c A = true ∧ (1 ≤ c.widTrusted ∧ c.widTrusted ≤ 15)
        ∧ (∀ w ∈ c.markerWidInit, w ≤ c.widTrusted) ∧ (∀ f ∈ c.filters, f.widInit ≤ c.widTrusted)
        ∧ (∀ n ∈ c.pmpBlocks, n ≤ c.widTrusted) := by
  simp only [parameterError, ite_some_eq_none, not_not, Bool.not_eq_true', Bool.not_eq_false, Bool.not_eq_true,
    List.any_eq_false, decide_eq_true_eq, Nat.not_lt, Nat.not_le, and_true, ne_eq]

/-! ## The bus map -/

/-- Two entries share a byte exactly when each starts before the other ends. -/
theorem entriesOverlap_eq_false (x y : BusEntry) :
    entriesOverlap x y = false ↔ ¬(x.base < y.base + y.size ∧ y.base < x.base + x.size) := by
  rw [← Bool.not_eq_true, entriesOverlap, Bool.and_eq_true, decide_eq_true_eq, decide_eq_true_eq]

/-- R164: the insertion adds one entry. -/
theorem mem_insertEntry (e x : BusEntry) (l : List BusEntry) : x ∈ insertEntry e l ↔ x = e ∨ x ∈ l := by
  induction l with
  | nil => simp [insertEntry]
  | cons y l ih =>
    simp only [insertEntry]
    split
    · simp
    · simp [ih]; tauto

/-- R164: inserting an entry that overlaps none keeps the order and the disjointness. -/
theorem insertEntry_pairwise (e : BusEntry) (l : List BusEntry)
    (hl : l.Pairwise (fun x y => x.base + x.size ≤ y.base)) (hs : e.size ≠ 0) (hn : ∀ x ∈ l, x.size ≠ 0)
    (ho : l.any (entriesOverlap e) = false) :
    (insertEntry e l).Pairwise (fun x y => x.base + x.size ≤ y.base) := by
  induction l with
  | nil => simp [insertEntry]
  | cons y l ih =>
    simp only [List.any_cons, Bool.or_eq_false_iff] at ho
    obtain ⟨h1, h2⟩ := List.pairwise_cons.1 hl
    have hy := ho.1
    have hny := hn y (by simp)
    simp only [entriesOverlap, Bool.and_eq_false_iff, decide_eq_false_iff_not, Nat.not_lt] at hy
    simp only [insertEntry]
    split
    · next hlt =>
      refine List.pairwise_cons.2 ⟨?_, hl⟩
      intro x hx
      rcases List.mem_cons.1 hx with rfl | hx
      · omega
      · have := h1 x hx; omega
    · next hlt =>
      refine List.pairwise_cons.2 ⟨?_, ih h2 (fun x hx => hn x (List.mem_cons_of_mem _ hx)) ho.2⟩
      intro x hx
      rcases (mem_insertEntry _ _ _).1 hx with rfl | hx
      · omega
      · exact h1 x hx

/-- R164: what an accepted `AddDevice` met and did. -/
theorem addDevice_eq_ok {c : Config} {bus bus' : List BusEntry} {base : Nat} {d : Device} {gs : List Guard} :
    addDevice c bus base d gs = .ok bus' ↔
      ∃ size, deviceSize c d = some size ∧ gs.all (guardExists c) = true ∧ size ≠ 0 ∧ base + size ≤ 2 ^ 64
        ∧ bus.any (entriesOverlap ⟨base, size, d, gs⟩) = false ∧ bus' = insertEntry ⟨base, size, d, gs⟩ bus := by
  unfold addDevice
  cases deviceSize c d with
  | none => simp
  | some size =>
    simp only [Option.some.injEq, exists_eq_left', Bool.not_eq_true']
    split_ifs with h1 h2 h3 h4
    · simp [h1]
    · simp [h2]
    · simp only [reduceCtorEq, false_iff]; rintro ⟨-, -, h, -⟩; omega
    · simp only [reduceCtorEq, false_iff, h4]; rintro ⟨-, -, -, h, -⟩; cases h
    · simp only [Bool.not_eq_false, Bool.not_eq_true] at h1 h4
      simp only [h1, h2, h4, Nat.not_lt.1 h3, Except.ok.injEq, ne_eq, not_false_eq_true, true_and]
      exact eq_comm

/-! ## HART_CONFIG -/

/-- The characters of the segments from hart `h` on, each with its hart. -/
def segmentChars : Nat → List (List Char) → List (Nat × Char)
  | _, [] => []
  | h, seg :: segs => seg.map (fun c => (h, c)) ++ segmentChars (h + 1) segs

/-- As many segments as commas, and one (R262). -/
theorem splitCommas_length (cs : List Char) : (splitCommas cs).length = cs.count ',' + 1 := by
  induction cs with
  | nil => rfl
  | cons c cs ih =>
    simp only [splitCommas, List.count_cons]
    split
    · next h => subst h; simp [ih]
    · next h =>
      cases hs : splitCommas cs with
      | nil => simp [hs] at ih
      | cons a b => rw [hs] at ih; simpa [h] using ih

theorem splitCommas_ne_nil (cs : List Char) : splitCommas cs ≠ [] := by
  cases cs with
  | nil => simp [splitCommas]
  | cons c cs => simp only [splitCommas]; split; simp; split <;> simp

/-- The characters between commas, as the segments give them. -/
theorem hartChars_eq_segmentChars (cs : List Char) (h : Nat) : hartChars h cs = segmentChars h (splitCommas cs) := by
  induction cs generalizing h with
  | nil => simp [hartChars, splitCommas, segmentChars]
  | cons c cs ih =>
    simp only [hartChars, splitCommas]
    split
    · simp [segmentChars, ih]
    · rw [ih]
      split
      · next he => exact absurd he (splitCommas_ne_nil _)
      · next seg segs he => simp [he, segmentChars]

/-- R262: a segment is accepted exactly when its characters are modes, none twice and none already seen. -/
theorem parseSegment_eq_ok (seen : List Mode) (cs : List Char) (mds : List Mode) :
    parseSegment seen cs = .ok mds ↔ cs.map modeOf = mds.map some ∧ mds.Nodup ∧ ∀ m ∈ mds, m ∉ seen := by
  induction cs generalizing seen mds with
  | nil =>
    simp only [parseSegment, Except.ok.injEq, List.map_nil, eq_comm (a := ([] : List (Option Mode))),
      List.map_eq_nil_iff]
    constructor
    · rintro rfl; simp
    · rintro ⟨rfl, -⟩; rfl
  | cons c cs ih =>
    simp only [parseSegment]
    split
    · next hm => simp [hm]; cases mds <;> simp
    · next md hm =>
      split
      · next hs =>
        simp only [reduceCtorEq, false_iff]
        rintro ⟨h1, h2, h3⟩
        cases mds with
        | nil => simp at h1
        | cons m mds => simp [hm] at h1; exact h3 m (by simp) (h1.1 ▸ hs)
      · next hs =>
        split
        · next r hr =>
          have := (ih _ _).1 hr
          simp only [Except.ok.injEq]
          constructor
          · rintro rfl
            refine ⟨by simp [hm, this.1],
              List.nodup_cons.2 ⟨fun hh => this.2.2 _ hh (by simp), this.2.1⟩, ?_⟩
            intro m hmm
            rcases List.mem_cons.1 hmm with rfl | hmm
            · exact hs
            · intro h; exact this.2.2 m hmm (List.mem_cons_of_mem _ h)
          · rintro ⟨h1, h2, h3⟩
            cases mds with
            | nil => simp at h1
            | cons m mds =>
              simp [hm] at h1
              obtain ⟨rfl, h1⟩ := h1
              rw [this.1] at h1
              congr
              exact (List.map_injective_iff.2 (Option.some_injective _)) h1
        · next e he =>
          simp only [reduceCtorEq, false_iff]
          rintro ⟨h1, h2, h3⟩
          cases mds with
          | nil => simp at h1
          | cons m mds =>
            simp [hm] at h1
            obtain ⟨rfl, h1⟩ := h1
            have hn := List.nodup_cons.1 h2
            have := (ih (md :: seen) mds).2 ⟨h1, hn.2, fun m hmm => by
              intro h; rcases List.mem_cons.1 h with rfl | h
              · exact hn.1 hmm
              · exact h3 m (List.mem_cons_of_mem _ hmm) h⟩
            rw [he] at this; cases this

/-- Every character's hart is at least the first. -/
theorem segmentChars_ge (h : Nat) (segs : List (List Char)) : ∀ p ∈ segmentChars h segs, h ≤ p.1 := by
  induction segs generalizing h with
  | nil => simp [segmentChars]
  | cons s ss ih =>
    simp only [segmentChars, List.mem_append, List.mem_map]
    rintro p (⟨c, -, rfl⟩ | hp)
    · simp
    · have := ih _ p hp; omega

end Sys2Proof.Machine
end

