-- ==== Sys2Proof/Laws/Operands.lean ====
section
/-! SUPPORT. Byte strings, windows and bitfields: what a byte of a window, of a patched string and of a register is. -/

namespace Sys2Proof.Machine

@[simp] theorem leBytes_length (n v : Nat) : (leBytes n v).length = n := by
  induction n generalizing v with
  | zero => rfl
  | succ n ih => simp [leBytes, ih]

/-- Byte `j` of `le_bytes(v, n)` (R14). -/
theorem leBytes_getD (n v j : Nat) (h : j < n) : (leBytes n v).getD j 0#8 = BitVec.ofNat 8 (v / 2 ^ (8 * j)) := by
  induction n generalizing v j with
  | zero => omega
  | succ n ih =>
    cases j with
    | zero => simp [leBytes]
    | succ j =>
      simp only [leBytes, List.getD_cons_succ]
      rw [ih (v / 256) j (by omega), Nat.div_div_eq_div_mul,
        show 8 * (j + 1) = 8 + 8 * j by omega, Nat.pow_add]

theorem leValue_lt (b : Bytes) : leValue b < 2 ^ (8 * b.length) := by
  induction b with
  | nil => simp [leValue]
  | cons x b ih =>
    have hx := x.isLt
    simp only [leValue, List.length_cons, show 8 * (b.length + 1) = 8 + 8 * b.length by omega, Nat.pow_add]
    omega

/-- Byte `j` of the value is byte `j` of the string (R14). -/
theorem leValue_byte (b : Bytes) (j : Nat) : BitVec.ofNat 8 (leValue b / 2 ^ (8 * j)) = b.getD j 0#8 := by
  induction b generalizing j with
  | nil => simp [leValue]
  | cons x b ih =>
    cases j with
    | zero =>
      simp only [leValue, Nat.mul_zero, Nat.pow_zero, Nat.div_one, List.getD_cons_zero]
      apply BitVec.eq_of_toNat_eq
      simp only [BitVec.toNat_ofNat]
      have := x.isLt
      omega
    | succ j =>
      rw [List.getD_cons_succ, ← ih j, show 8 * (j + 1) = 8 + 8 * j by omega, Nat.pow_add,
        ← Nat.div_div_eq_div_mul]
      congr 2
      have := x.isLt
      simp only [leValue]
      omega

theorem window_length (F : Bytes) (off len : Nat) (h : off + len ≤ F.length) : (window F off len).length = len := by
  simp [window]; omega

/-- Byte `j` of a window (R15). -/
theorem window_getD (F : Bytes) (off len j : Nat) (h : j < len) :
    (window F off len).getD j 0#8 = F.getD (off + j) 0#8 := by
  simp [window, List.getD_eq_getElem?_getD, h]

theorem patch_length (F : Bytes) (off : Nat) (b : Bytes) (h : off + b.length ≤ F.length) :
    (patch F off b).length = F.length := by
  simp [patch]; omega

/-- Byte `j` of a patched string (R15). -/
theorem patch_getD (F : Bytes) (off : Nat) (b : Bytes) (j : Nat) (h : off ≤ F.length) :
    (patch F off b).getD j 0#8 =
      if off ≤ j ∧ j < off + b.length then b.getD (j - off) 0#8 else F.getD j 0#8 := by
  simp only [patch, List.getD_eq_getElem?_getD, List.append_assoc]
  by_cases h1 : j < off
  · rw [List.getElem?_append_left (by simp; omega), List.getElem?_take_of_lt h1, if_neg (by omega)]
  · rw [List.getElem?_append_right (by simp; omega)]
    have hl : (F.take off).length = off := by simp; omega
    rw [hl]
    by_cases h2 : j < off + b.length
    · rw [List.getElem?_append_left (by omega), if_pos (by omega)]
    · rw [List.getElem?_append_right (by omega), if_neg (by omega), List.getElem?_drop]
      congr 2
      omega

/-- Byte `j` of a register. -/
theorem extract_byte {w : Nat} (v : BitVec w) (j : Nat) :
    v.extractLsb' (8 * j) 8 = BitVec.ofNat 8 (v.toNat / 2 ^ (8 * j)) := by
  apply BitVec.eq_of_toNat_eq
  simp [BitVec.extractLsb'_toNat, Nat.shiftRight_eq_div_pow]

/-- What a load of a register's window answers, byte by byte (R80, R271). -/
theorem readWindow_byte {w : Nat} (v : BitVec w) (k len j : Nat) (h : k + len ≤ w / 8) (hj : j < len) :
    (readWindow v k len).getD j 0#8 = v.extractLsb' (8 * (k + j)) 8 := by
  rw [readWindow, window_getD _ _ _ _ hj, leBytes_getD _ _ _ (by omega), extract_byte]

theorem readWindow_length {w : Nat} (v : BitVec w) (k len : Nat) (h : k + len ≤ w / 8) :
    (readWindow v k len).length = len := window_length _ _ _ (by simpa using h)

/-- What a store to a register's window leaves, byte by byte (R80, R271). -/
theorem writeWindow_byte {w : Nat} (v : BitVec w) (k : Nat) (b : Bytes) (j : Nat) (hw : w % 8 = 0)
    (h : k + b.length ≤ w / 8) (hj : j < w / 8) :
    (writeWindow v k b).extractLsb' (8 * j) 8 =
      if k ≤ j ∧ j < k + b.length then b.getD (j - k) 0#8 else v.extractLsb' (8 * j) 8 := by
  have hl : (patch (leBytes (w / 8) v.toNat) k b).length = w / 8 := by
    rw [patch_length _ _ _ (by simpa using h), leBytes_length]
  have hlt : leValue (patch (leBytes (w / 8) v.toNat) k b) < 2 ^ w := by
    have := leValue_lt (patch (leBytes (w / 8) v.toNat) k b)
    rwa [hl, show 8 * (w / 8) = w by omega] at this
  rw [extract_byte, writeWindow, BitVec.toNat_ofNat, Nat.mod_eq_of_lt hlt, leValue_byte,
    patch_getD _ _ _ _ (by simp; omega), leBytes_getD _ _ _ hj, extract_byte]

/-- Two registers of whole bytes are equal when their bytes are. -/
theorem eq_of_bytes {w : Nat} (u v : BitVec w) (hw : w % 8 = 0)
    (h : ∀ j < w / 8, u.extractLsb' (8 * j) 8 = v.extractLsb' (8 * j) 8) : u = v := by
  apply BitVec.eq_of_getLsbD_eq
  intro i hi
  have := congrArg (fun x => x.getLsbD (i % 8)) (h (i / 8) (by omega))
  have h8 : i % 8 < 8 := Nat.mod_lt _ (by omega)
  simpa [h8, Nat.div_add_mod] using this

@[simp] theorem setBit_length (ws : List Word32) (i : Nat) : (setBit ws i).length = ws.length := by simp [setBit]

@[simp] theorem clearBit_length (ws : List Word32) (i : Nat) : (clearBit ws i).length = ws.length := by
  simp [clearBit]

/-- Bit `j` of a bitfield with bit `i` set (R39). -/
theorem bitAt_setBit (ws : List Word32) (i j : Nat) (h : i / 32 < ws.length) :
    bitAt (setBit ws i) j = (decide (i = j) || bitAt ws j) := by
  simp only [bitAt, setBit, List.getD_eq_getElem?_getD, List.getElem?_set]
  by_cases hw : i / 32 = j / 32
  · have h' : j / 32 < ws.length := hw ▸ h
    have hm : j % 32 < 32 := Nat.mod_lt _ (by omega)
    by_cases hij : i = j
    · subst hij; simp [h', hm]
    · have : ¬i % 32 = j % 32 := by omega
      simp only [hw, h', if_true, Option.getD_some, BitVec.getLsbD_or, BitVec.getLsbD_shiftLeft, hm,
        BitVec.getLsbD_one, decide_true, Bool.true_and, hij, decide_false, Bool.false_or]
      rw [Bool.or_eq_left_iff_imp]
      simp
      omega
  · simp [hw, show ¬i = j by intro e; exact hw (by rw [e])]

/-- Bit `j` of a bitfield with bit `i` cleared (R39). -/
theorem bitAt_clearBit (ws : List Word32) (i j : Nat) :
    bitAt (clearBit ws i) j = (!decide (i = j) && bitAt ws j) := by
  simp only [bitAt, clearBit, List.getD_eq_getElem?_getD, List.getElem?_set]
  by_cases hw : i / 32 = j / 32
  · have hm : j % 32 < 32 := Nat.mod_lt _ (by omega)
    by_cases h' : j / 32 < ws.length
    · by_cases hij : i = j
      · subst hij; simp [h', hm]
      · have : ¬i % 32 = j % 32 := by omega
        simp only [hw, h', if_true, Option.getD_some, BitVec.getLsbD_and, BitVec.getLsbD_not,
          BitVec.getLsbD_shiftLeft, hm, BitVec.getLsbD_one, decide_true, Bool.true_and, hij, decide_false,
          Bool.not_false]
        rw [Bool.and_eq_left_iff_imp]
        simp
        omega
    · simp [hw, h']
  · simp [hw, show ¬i = j by intro e; exact hw (by rw [e])]

end Sys2Proof.Machine
end

