-- ==== Sys2Proof/Laws/ClintFrame.lean ====
section
/-! SUPPORT. Everything the CLINT's access frame (41_clint.md R182) can do around an operation, in the terms of
Sys2Proof/Safety.lean, and the bytes of its register families. -/

namespace Sys2Proof.Machine

/-- The block has between 1 and 4095 harts (R11). -/
theorem nHarts_bounds {s : State} (h : s.Parameters) : 1 ≤ s.cfg.nHarts ∧ s.cfg.nHarts ≤ 4095 :=
  ((parameterError_eq_none _ _).1 h).1

/-- An access of at least one byte inside the CLINT reaches it. -/
theorem forwards_clint (s : State) (off len : Nat) (h : 1 ≤ len) (hi : off + len ≤ 0xC000) :
    forwards s.cfg .clint off len = true := by
  rw [forwards_eq_true]; exact ⟨0xC000, rfl, by omega, hi⟩

/-- The time an operation in the frame works with is the sampled one (R180, R182). -/
theorem sampleIfRealTime_sampled (s : State) :
    SampledTime s (sampleIfRealTime s).clockUs (sampleIfRealTime s).mtime := by
  unfold SampledTime sampleIfRealTime
  split
  · obtain ⟨a, b⟩ := nextClock_ge s
    exact ⟨a, b, by simp [sample, State.setMtime, State.setClockDraws, State.setClockUs, realTimeMtime]⟩
  · exact ⟨rfl, rfl⟩

/-- The frame around an operation that changes at most time, compare values and MSIP: a CLINT effect, whose MSIP bits
are the operation's. -/
theorem clintFrame_effect (op : State → Served) (s : State) (o : Output) (hs : s.Shape)
    (hop : (op (sampleIfRealTime s)).1 =
        { sampleIfRealTime s with
          mtime := (op (sampleIfRealTime s)).1.mtime, mtimecmp := (op (sampleIfRealTime s)).1.mtimecmp,
          mip := (op (sampleIfRealTime s)).1.mip }
      ∧ (op (sampleIfRealTime s)).1.mtimecmp.length = s.mtimecmp.length
      ∧ (op (sampleIfRealTime s)).1.mip.length = s.mip.length
      ∧ ∀ h, ((op (sampleIfRealTime s)).1.mipOf h).meip = (s.mipOf h).meip
          ∧ ((op (sampleIfRealTime s)).1.mipOf h).seip = (s.mipOf h).seip) :
    ClintEffect s ((clintFrame op s).1.setOut o)
      ∧ ∀ h, (((clintFrame op s).1.setOut o).mipOf h).msip = ((op (sampleIfRealTime s)).1.mipOf h).msip := by
  rw [clintFrame_eq]
  generalize (op (sampleIfRealTime s)).1 = u at *
  obtain ⟨h1, h2, h3, h4⟩ := hop
  have hc : u.cfg = s.cfg := by rw [h1]; simp
  refine ⟨⟨?_, by simpa using h2, by simpa using h3, fun h => ?_, fun i hi => ?_⟩, fun h => ?_⟩
  · simp only [State.setOut, recomputeMtip, State.setMip]
    rw [h1]
    unfold sampleIfRealTime
    split <;> rfl
  · simpa using h4 h
  · have hn : i < u.cfg.nHarts := by simpa [hc] using hi
    rw [State.setOut_mipOf, recomputeMtip_mtip u i hn (by rw [h3, hc]; exact hs.2.1)]
    rfl
  · simp

/-- The frame around an operation that changes nothing. -/
theorem clintFrame_pure (op : State → Served) (s : State) (o : Output) (hs : s.Shape)
    (hop : (op (sampleIfRealTime s)).1 = sampleIfRealTime s) :
    ClintEffect s ((clintFrame op s).1.setOut o) ∧ SameMsip s ((clintFrame op s).1.setOut o)
      ∧ ((clintFrame op s).1.setOut o).mtimecmp = s.mtimecmp
      ∧ ((clintFrame op s).1.setOut o).mtime = (sampleIfRealTime s).mtime
      ∧ ((clintFrame op s).1.setOut o).clockUs = (sampleIfRealTime s).clockUs := by
  have hm : ∀ h, (sampleIfRealTime s).mipOf h = s.mipOf h := fun h => by simp [State.mipOf]
  obtain ⟨ce, cm⟩ := clintFrame_effect op s o hs (by rw [hop]; exact ⟨rfl, by simp, by simp, fun h => by simp [hm]⟩)
  refine ⟨ce, fun h => ?_, ?_, ?_, ?_⟩
  · rw [cm, hop, hm]
  all_goals rw [clintFrame_eq, hop]; simp

/-- The frame around an operation that writes `mtime`. -/
theorem clintFrame_setMtime (f : State → Word64) (s : State) (o : Output) (b : Option Bytes) (hs : s.Shape) :
    ∃ t, clintFrame (fun s => (s.setMtime (f s), b)) s = (t, b) ∧ ClintEffect s (t.setOut o)
      ∧ SameMsip s (t.setOut o) ∧ (t.setOut o).mtimecmp = s.mtimecmp
      ∧ (t.setOut o).mtime = f (sampleIfRealTime s) ∧ (t.setOut o).clockUs = (sampleIfRealTime s).clockUs := by
  have hm : ∀ h, (sampleIfRealTime s).mipOf h = s.mipOf h := fun h => by simp [State.mipOf]
  obtain ⟨ce, cm⟩ := clintFrame_effect (fun s => (s.setMtime (f s), b)) s o hs
    ⟨rfl, by simp, by simp, fun h => ⟨congrArg Mip.meip (hm h), congrArg Mip.seip (hm h)⟩⟩
  rw [clintFrame_eq] at ce cm ⊢
  exact ⟨_, rfl, ce, fun h => by rw [cm]; exact congrArg Mip.msip (hm h), by simp, by simp, by simp⟩

/-- The frame around an operation that writes the compare values. -/
theorem clintFrame_setMtimecmp (f : State → List Word64) (s : State) (o : Output) (b : Option Bytes) (hs : s.Shape)
    (hf : (f (sampleIfRealTime s)).length = s.cfg.nHarts) :
    ∃ t, clintFrame (fun s => (s.setMtimecmp (f s), b)) s = (t, b) ∧ ClintEffect s (t.setOut o)
      ∧ SameMsip s (t.setOut o) ∧ (t.setOut o).mtimecmp = f (sampleIfRealTime s)
      ∧ (t.setOut o).mtime = (sampleIfRealTime s).mtime ∧ (t.setOut o).clockUs = (sampleIfRealTime s).clockUs := by
  have hm : ∀ h, (sampleIfRealTime s).mipOf h = s.mipOf h := fun h => by simp [State.mipOf]
  obtain ⟨ce, cm⟩ := clintFrame_effect (fun s => (s.setMtimecmp (f s), b)) s o hs
    ⟨rfl, by simp [hf, hs.1], by simp,
      fun h => ⟨congrArg Mip.meip (hm h), congrArg Mip.seip (hm h)⟩⟩
  rw [clintFrame_eq] at ce cm ⊢
  exact ⟨_, rfl, ce, fun h => by rw [cm]; exact congrArg Mip.msip (hm h), by simp, by simp, by simp⟩

/-- The length of `n` registers of `k` bytes. -/
theorem flatMap_range_length {n k : Nat} (f : Nat → Bytes) (hf : ∀ i, (f i).length = k) :
    ((List.range n).flatMap f).length = k * n := by
  simp [List.length_flatMap, hf, Nat.mul_comm]

/-- Byte `j` of `n` registers of `k` bytes is byte `j % k` of register `j / k`. -/
theorem flatMap_range_getD (n k : Nat) (f : Nat → Bytes) (hf : ∀ i, (f i).length = k) (j : Nat) (hj : j < k * n) :
    ((List.range n).flatMap f).getD j 0#8 = (f (j / k)).getD (j % k) 0#8 := by
  induction n with
  | zero => omega
  | succ n ih =>
    rw [List.range_succ, List.flatMap_append]
    simp only [List.getD_eq_getElem?_getD]
    have hl := flatMap_range_length (n := n) f hf
    by_cases h : j < k * n
    · rw [List.getElem?_append_left (by omega)]
      simpa [List.getD_eq_getElem?_getD] using ih h
    · rw [List.getElem?_append_right (by omega), hl]
      have hd : j / k = n :=
        Nat.div_eq_of_lt_le (by rw [Nat.mul_comm]; omega) (by rw [Nat.mul_comm]; exact hj)
      have hm := Nat.div_add_mod j k
      rw [hd] at hm
      simp only [List.flatMap_singleton, hd]
      congr 2
      omega

theorem msipBytes_length (s : State) : s.msipBytes.length = 4 * s.cfg.nHarts :=
  flatMap_range_length _ (by simp)

theorem mtimecmpBytes_length (s : State) : s.mtimecmpBytes.length = 8 * s.cfg.nHarts :=
  flatMap_range_length _ (by simp)

/-- Byte `j` of the MSIP family: MSIP of its hart in byte 0 of each word (D9). -/
theorem msipBytes_getD (s : State) (j : Nat) (hj : j < 4 * s.cfg.nHarts) :
    s.msipBytes.getD j 0#8 = if j % 4 = 0 ∧ (s.mipOf (j / 4)).msip = true then 1#8 else 0#8 := by
  rw [State.msipBytes, flatMap_range_getD _ 4 _ (by simp) _ hj, leBytes_getD _ _ _ (by omega)]
  have : j % 4 = 0 ∨ j % 4 = 1 ∨ j % 4 = 2 ∨ j % 4 = 3 := by omega
  rcases this with h | h | h | h <;> simp only [h] <;> cases (s.mipOf (j / 4)).msip <;> decide

/-- Byte `j` of the compare registers. -/
theorem mtimecmpBytes_getD (s : State) (j : Nat) (hj : j < 8 * s.cfg.nHarts) :
    s.mtimecmpBytes.getD j 0#8 = byteOf (s.timecmp (j / 8)) (j % 8) := by
  rw [State.mtimecmpBytes, flatMap_range_getD _ 8 _ (by simp) _ hj, leBytes_getD _ _ _ (by omega), byteOf,
    extract_byte]

end Sys2Proof.Machine
end

