-- ==== Sys2Proof/Laws/Plic.lean ====
section
/-! SUPPORT. The PLIC: every row of it is the device's port (30_encoding.md R122, R124). -/

namespace Sys2Proof.Machine

variable (s : State)

/-- What an access selects, read back as R220's shape and R124's register. -/
theorem plicSelects_eq_some (off len : Nat) (x : PlicRegister) :
    s.plicSelects off len = some x ↔
      plicAligned off len = true ∧ plicRegister s.cfg s.contexts.length off = x := by
  unfold State.plicSelects
  split <;> simp_all

/-- The row is the port's access. -/
theorem execPlicLdPriority_eq_port (r : LoadReq) : execPlicLdPriority r s = portLoad .plic r (plicLoad r) s := by
  unfold execPlicLdPriority portLoad
  congr 2
  beta_reduce
  split
  · next h =>
    obtain ⟨h1, h2⟩ := (plicSelects_eq_some ..).1 h
    simp [plicLoad, h1, h2]
  · rfl

/-- The row is the port's access. -/
theorem execPlicStPriority_eq_port (r : StoreReq) : execPlicStPriority r s = portStore .plic r (plicStore r) s := by
  unfold execPlicStPriority portStore
  congr 2
  beta_reduce
  split
  · next h =>
    obtain ⟨h1, h2⟩ := (plicSelects_eq_some ..).1 h
    simp [plicStore, h1, h2]
  · rfl

/-- The row is the port's access. -/
theorem execPlicLdPending_eq_port (r : LoadReq) : execPlicLdPending r s = portLoad .plic r (plicLoad r) s := by
  unfold execPlicLdPending portLoad
  congr 2
  beta_reduce
  split
  · next h =>
    obtain ⟨h1, h2⟩ := (plicSelects_eq_some ..).1 h
    simp [plicLoad, h1, h2]
  · rfl

/-- The row is the port's access. -/
theorem execPlicStPending_eq_port (r : StoreReq) : execPlicStPending r s = portStore .plic r (plicStore r) s := by
  unfold execPlicStPending portStore
  congr 2
  beta_reduce
  split
  · next h =>
    obtain ⟨h1, h2⟩ := (plicSelects_eq_some ..).1 h
    simp [plicStore, h1, h2]
  · rfl

/-- The row is the port's access. -/
theorem execPlicLdEnable_eq_port (r : LoadReq) : execPlicLdEnable r s = portLoad .plic r (plicLoad r) s := by
  unfold execPlicLdEnable portLoad
  congr 2
  beta_reduce
  split
  · next h =>
    obtain ⟨h1, h2⟩ := (plicSelects_eq_some ..).1 h
    simp [plicLoad, h1, h2]
  · rfl

/-- The row is the port's access. -/
theorem execPlicStEnable_eq_port (r : StoreReq) : execPlicStEnable r s = portStore .plic r (plicStore r) s := by
  unfold execPlicStEnable portStore
  congr 2
  beta_reduce
  split
  · next h =>
    obtain ⟨h1, h2⟩ := (plicSelects_eq_some ..).1 h
    simp [plicStore, h1, h2]
  · rfl

/-- The row is the port's access. -/
theorem execPlicLdThreshold_eq_port (r : LoadReq) : execPlicLdThreshold r s = portLoad .plic r (plicLoad r) s := by
  unfold execPlicLdThreshold portLoad
  congr 2
  beta_reduce
  split
  · next h =>
    obtain ⟨h1, h2⟩ := (plicSelects_eq_some ..).1 h
    simp [plicLoad, h1, h2]
  · rfl

/-- The row is the port's access. -/
theorem execPlicStThreshold_eq_port (r : StoreReq) : execPlicStThreshold r s = portStore .plic r (plicStore r) s := by
  unfold execPlicStThreshold portStore
  congr 2
  beta_reduce
  split
  · next h =>
    obtain ⟨h1, h2⟩ := (plicSelects_eq_some ..).1 h
    simp [plicStore, h1, h2]
  · rfl

/-- The row is the port's access. -/
theorem execPlicLdClaim_eq_port (r : LoadReq) : execPlicLdClaim r s = portLoad .plic r (plicLoad r) s := by
  unfold execPlicLdClaim portLoad
  congr 2
  beta_reduce
  split
  · next h =>
    obtain ⟨h1, h2⟩ := (plicSelects_eq_some ..).1 h
    simp [plicLoad, h1, h2]
  · rfl

/-- The row is the port's access. -/
theorem execPlicStComplete_eq_port (r : StoreReq) : execPlicStComplete r s = portStore .plic r (plicStore r) s := by
  unfold execPlicStComplete portStore
  congr 2
  beta_reduce
  split
  · next h =>
    obtain ⟨h1, h2⟩ := (plicSelects_eq_some ..).1 h
    simp [plicStore, h1, h2]
  · rfl

/-- The row is the port's access. -/
theorem execPlicLdReserved_eq_port (r : LoadReq) : execPlicLdReserved r s = portLoad .plic r (plicLoad r) s := by
  unfold execPlicLdReserved portLoad
  congr 2
  beta_reduce
  split
  · next h =>
    obtain ⟨h1, h2⟩ := (plicSelects_eq_some ..).1 h
    simp [plicLoad, h1, h2]
  · rfl

/-- The row is the port's access. -/
theorem execPlicStReserved_eq_port (r : StoreReq) : execPlicStReserved r s = portStore .plic r (plicStore r) s := by
  unfold execPlicStReserved portStore
  congr 2
  beta_reduce
  split
  · next h =>
    obtain ⟨h1, h2⟩ := (plicSelects_eq_some ..).1 h
    simp [plicStore, h1, h2]
  · rfl

/-- The frame's own row is the port's access (R220). -/
theorem execPlicMisaligned_load_eq_port (r : LoadReq) :
    execPlicMisaligned (.load r) s = portLoad .plic r (plicLoad r) s := by
  simp only [execPlicMisaligned, portLoad]
  congr 2
  split
  · rfl
  · next h => simp [plicLoad, h]

/-- The frame's own row is the port's access (R220). -/
theorem execPlicMisaligned_store_eq_port (r : StoreReq) :
    execPlicMisaligned (.store r) s = portStore .plic r (plicStore r) s := by
  simp only [execPlicMisaligned, portStore]
  congr 2
  split
  · rfl
  · next h => simp [plicStore, h]

end Sys2Proof.Machine
end

