-- ==== Sys2Proof/Laws/WorldGuard.lean ====
section
/-! SUPPORT. The world-guard: every row of a guard register device is the device's port (30_encoding.md R122, R125 to
R127). -/

namespace Sys2Proof.Machine

variable (s : State)

/-- A row whose operation is the register operation of its device, where the access selects it, is the port's. -/
theorem guardRowLoad_eq_port (g : GuardDevice) (r : LoadReq) (sel : Bool) (op : State → Served)
    (h : sel = true → op s = registerLoad g r s) :
    guardRowLoad g r sel op s = portLoad (guardDevice g) r (guardLoad g r) s := by
  unfold guardRowLoad portLoad
  congr 2
  beta_reduce
  split
  · next hc =>
    rw [Bool.and_eq_true] at hc
    rw [h hc.2, guardLoad, if_pos hc.1]
  · rfl

/-- As `guardRowLoad_eq_port`, for a store. -/
theorem guardRowStore_eq_port (g : GuardDevice) (r : StoreReq) (sel : Bool) (op : State → Served)
    (h : sel = true → op s = registerStore g r s) :
    guardRowStore g r sel op s = portStore (guardDevice g) r (guardStore g r) s := by
  unfold guardRowStore portStore
  congr 2
  beta_reduce
  split
  · next hc =>
    rw [Bool.and_eq_true] at hc
    rw [h hc.2, guardStore, if_pos hc.1]
  · rfl

/-- A block's field that holds an access is the field of block `off / 0x18` (R127). -/
theorem pmpField_of_inField (off len : Nat) (f : PmpField) (h : inField off len f = true) :
    pmpField off len = some (off / 0x18, f) := by
  unfold inField at h
  have h := of_decide_eq_true h
  unfold pmpField at h ⊢
  dsimp only at h ⊢
  (repeat' split at h) <;> simp_all

/-- The row is the port's access. -/
theorem execWgmLdWid_eq_port (m : Nat) (r : LoadReq) :
    execWgmLdWid m r s = portLoad (.marker m) r (guardLoad (.marker m) r) s :=
  guardRowLoad_eq_port s _ _ _ _ (fun h => by simp [registerLoad, of_decide_eq_true h])

/-- The row is the port's access. -/
theorem execWgmStWid_eq_port (m : Nat) (r : StoreReq) :
    execWgmStWid m r s = portStore (.marker m) r (guardStore (.marker m) r) s :=
  guardRowStore_eq_port s _ _ _ _ (fun h => by simp [registerStore, of_decide_eq_true h])

/-- The row is the port's access. -/
theorem execWgmLdLock_eq_port (m : Nat) (r : LoadReq) :
    execWgmLdLock m r s = portLoad (.marker m) r (guardLoad (.marker m) r) s :=
  guardRowLoad_eq_port s _ _ _ _ (fun h => by simp [registerLoad, of_decide_eq_true h])

/-- The row is the port's access. -/
theorem execWgmStLock_eq_port (m : Nat) (r : StoreReq) :
    execWgmStLock m r s = portStore (.marker m) r (guardStore (.marker m) r) s :=
  guardRowStore_eq_port s _ _ _ _ (fun h => by simp [registerStore, of_decide_eq_true h])

/-- The row is the port's access. -/
theorem execWgfLdWid_eq_port (f : Nat) (r : LoadReq) :
    execWgfLdWid f r s = portLoad (.filter f) r (guardLoad (.filter f) r) s :=
  guardRowLoad_eq_port s _ _ _ _ (fun h => by simp [registerLoad, h])

/-- The row is the port's access. -/
theorem execWgfStWid_eq_port (f : Nat) (r : StoreReq) :
    execWgfStWid f r s = portStore (.filter f) r (guardStore (.filter f) r) s :=
  guardRowStore_eq_port s _ _ _ _ (fun h => by simp [registerStore, h])

/-- The row is the port's access. -/
theorem execWgpLdPerm_eq_port (p : Nat) (r : LoadReq) :
    execWgpLdPerm p r s = portLoad (.pmp p) r (guardLoad (.pmp p) r) s :=
  guardRowLoad_eq_port s _ _ _ _ (fun h => by simp [registerLoad, pmpField_of_inField _ _ _ h])

/-- The row is the port's access. -/
theorem execWgpStPerm_eq_port (p : Nat) (r : StoreReq) :
    execWgpStPerm p r s = portStore (.pmp p) r (guardStore (.pmp p) r) s :=
  guardRowStore_eq_port s _ _ _ _ (fun h => by simp [registerStore, pmpField_of_inField _ _ _ h])

/-- The row is the port's access. -/
theorem execWgpLdBase_eq_port (p : Nat) (r : LoadReq) :
    execWgpLdBase p r s = portLoad (.pmp p) r (guardLoad (.pmp p) r) s :=
  guardRowLoad_eq_port s _ _ _ _ (fun h => by simp [registerLoad, pmpField_of_inField _ _ _ h])

/-- The row is the port's access. -/
theorem execWgpStBase_eq_port (p : Nat) (r : StoreReq) :
    execWgpStBase p r s = portStore (.pmp p) r (guardStore (.pmp p) r) s :=
  guardRowStore_eq_port s _ _ _ _ (fun h => by simp [registerStore, pmpField_of_inField _ _ _ h])

/-- The row is the port's access. -/
theorem execWgpLdCount_eq_port (p : Nat) (r : LoadReq) :
    execWgpLdCount p r s = portLoad (.pmp p) r (guardLoad (.pmp p) r) s :=
  guardRowLoad_eq_port s _ _ _ _ (fun h => by simp [registerLoad, pmpField_of_inField _ _ _ h])

/-- The row is the port's access. -/
theorem execWgpStCount_eq_port (p : Nat) (r : StoreReq) :
    execWgpStCount p r s = portStore (.pmp p) r (guardStore (.pmp p) r) s :=
  guardRowStore_eq_port s _ _ _ _ (fun h => by simp [registerStore, pmpField_of_inField _ _ _ h])

/-- The row is the port's access. -/
theorem execWgpLdLock_eq_port (p : Nat) (r : LoadReq) :
    execWgpLdLock p r s = portLoad (.pmp p) r (guardLoad (.pmp p) r) s :=
  guardRowLoad_eq_port s _ _ _ _ (fun h => by simp [registerLoad, pmpField_of_inField _ _ _ h])

/-- The row is the port's access. -/
theorem execWgpStLock_eq_port (p : Nat) (r : StoreReq) :
    execWgpStLock p r s = portStore (.pmp p) r (guardStore (.pmp p) r) s :=
  guardRowStore_eq_port s _ _ _ _ (fun h => by simp [registerStore, pmpField_of_inField _ _ _ h])

/-- R270 comes first at every guard register device: its row is the port's access. -/
theorem execWgUntrusted_load_eq_port (g : GuardDevice) (r : LoadReq) :
    execWgUntrusted g (.load r) s = portLoad (guardDevice g) r (guardLoad g r) s := rfl

/-- R270 comes first at every guard register device: its row is the port's access. -/
theorem execWgUntrusted_store_eq_port (g : GuardDevice) (r : StoreReq) :
    execWgUntrusted g (.store r) s = portStore (guardDevice g) r (guardStore g r) s := rfl

/-- An access that lies in no register is refused whoever issues it: R271's row is the port's access. -/
theorem execWgCrossing_load_eq_port (g : GuardDevice) (r : LoadReq) :
    execWgCrossing g (.load r) s = portLoad (guardDevice g) r (guardLoad g r) s := by
  simp only [execWgCrossing, portLoad]
  congr 2
  split
  · next h => cases g <;> simp_all [guardLoad, registerLoad, crosses]
  · rfl

/-- An access that lies in no register is refused whoever issues it: R271's row is the port's access. -/
theorem execWgCrossing_store_eq_port (g : GuardDevice) (r : StoreReq) :
    execWgCrossing g (.store r) s = portStore (guardDevice g) r (guardStore g r) s := by
  simp only [execWgCrossing, portStore]
  congr 2
  split
  · next h => cases g <;> simp_all [guardStore, registerStore, crosses]
  · rfl

end Sys2Proof.Machine
end

