-- ==== Sys2Proof/Laws/Effect.lean ====
section
/-! SUPPORT. What an instruction can do, said once: if `exec i s` answers a next state, that state is one of the effects
below. Facts about every instruction go through this list (`exec_effect`) and not through the meanings. -/

namespace Sys2Proof.Machine

/-- Every next state of an instruction, by the operation that leaves it, with what is known where it happens. -/
inductive Effect (i : Instr) (s : State) : State → Prop
  /-- nothing but what the transaction returned -/
  | same (o : Output) : Effect i s (s.setOut o)
  /-- a CLINT load or refusal: the frame (R182) -/
  | clint (o : Output) (a : Access) (ha : Reaches s i .clint a) :
      Effect i s ((recomputeMtip (sampleIfRealTime s)).setOut o)
  | msip (r : StoreReq) (hb : storedBytes i = some r.data) (ha : Reaches s i .clint (.store r)) :
      Effect i s ((recomputeMtip (storeMsip r.off r.data (sampleIfRealTime s))).setOut .stored)
  | mtimecmp (l : List Word64) (b : Bytes) (hb : storedBytes i = some b) (hl : l.length = s.cfg.nHarts)
      (a : Access) (ha : Reaches s i .clint a) :
      Effect i s ((recomputeMtip ((sampleIfRealTime s).setMtimecmp l)).setOut .stored)
  | mtime (v : Word64) (b : Bytes) (hb : storedBytes i = some b) (a : Access) (ha : Reaches s i .clint a) :
      Effect i s ((recomputeMtip ((sampleIfRealTime s).setMtime v)).setOut .stored)
  | tick (inc : Word64) (hi : i = .clintTick inc) : Effect i s ((recomputeMtip (tickTime inc s)).setOut .none)
  | priority (n : Nat) (v : BitVec 3) (x : Access) (hx : Reaches s i .plic x) :
      Effect i s ((update (s.setPlic { s.plic with priority := s.plic.priority.set n v })).setOut .stored)
  | enable (n : Nat) (v : Word32) (x : Access) (hx : Reaches s i .plic x) :
      Effect i s ((update (s.setPlic { s.plic with enable := s.plic.enable.set n v })).setOut .stored)
  | threshold (a : Nat) (v : Word32) (hv : v.toNat ≤ s.cfg.numPriorities) (x : Access) (hx : Reaches s i .plic x) :
      Effect i s ((update (s.setPlic { s.plic with threshold := s.plic.threshold.set a v })).setOut .stored)
  /-- a claim with an eligible IRQ; one without is `idleClaim` -/
  | claim (a : Nat) (h0 : best s a ≠ 0) (x : Access) (hx : Reaches s i .plic x) :
      Effect i s ((update (s.setPlic
        { s.plic with
          pending := clearBit s.plic.pending (best s a), claimed := setBit s.plic.claimed (best s a) })).setOut
            (.loaded (leBytes 4 (best s a))))
  | idleClaim (a : Nat) (h0 : best s a = 0) (x : Access) (hx : Reaches s i .plic x) :
      Effect i s ((update s).setOut (.loaded (leBytes 4 0)))
  | complete (b : Bytes) (hb : storedBytes i = some b) (hl : b.length = 4) (x : Access) (hx : Reaches s i .plic x) :
      Effect i s ((update (s.setPlic
        { s.plic with claimed := clearBit s.plic.claimed (storeValue b).toNat })).setOut .stored)
  /-- a complete of a value that is no id -/
  | idleComplete (x : Access) (hx : Reaches s i .plic x) : Effect i s ((update s).setOut .stored)
  | level (irq : Nat) (l : Bool) (h : 1 ≤ irq ∧ irq ≤ s.cfg.numSources) (hi : i = .plicSetPending irq l) :
      Effect i s ((update (s.setPlic
        { s.plic with
          level := s.plic.level.set (irq - 1) l
          pending := if latches s irq l then setBit s.plic.pending irq else s.plic.pending })).setOut .none)
  | marker (m : Nat) (x : Marker) (h : Nat) (b : Bytes) (hi : issuer i = some h) (hb : storedBytes i = some b)
      (ht : s.trusted h = true) (hlock : (s.marker m).lock = 0#32)
      (hw : x.wid = (s.marker m).wid ∨ x.wid.toNat ≤ s.cfg.widTrusted) :
      Effect i s ((s.setMarker m x).setOut .stored)
  | mask (f : Nat) (v : Word32) (h : Nat) (b : Bytes) (hi : issuer i = some h) (hb : storedBytes i = some b)
      (ht : s.trusted h = true) : Effect i s ((s.setMask f v).setOut .stored)
  | block (p k : Nat) (x : PmpBlock) (h : Nat) (b : Bytes) (hi : issuer i = some h) (hb : storedBytes i = some b)
      (ht : s.trusted h = true) (hlock : (s.block p k).lock = 0#32) : Effect i s ((s.setBlock p k x).setOut .stored)
  | ram (h : Nat) (addr : Word64) (b : Bytes) (hi : i = .busStore h addr b) :
      Effect i s ((s.setMem (s.mem.writeBytes addr.toNat b)).setOut .stored)
  | external (o : Output) (x : ExtAccess) : Effect i s ((s.setExtLog (x :: s.extLog)).setOut o)
  | added (base : Word64) (d : Device) (gs : List Guard) (bus : List BusEntry) (hp : s.phase = .configuring)
      (h : addDevice s.cfg s.bus base.toNat d gs = .ok bus) (hi : i = .busAddDevice base d gs) :
      Effect i s ((s.setBus bus).setOut .none)
  | constructed (c : Config) (t : State) (hp : s.phase = .unbuilt) (h : construct c s = .ok t) : Effect i s t

variable {i : Instr} {s t : State}

theorem effect_refuseLoad (h : Nat) (k : LoadKind) (a : Word64) (e : finishLoad h k a (refuse s) = .next t) :
    Effect i s t := by
  simp only [refuse, finishLoad, State.raiseAccessFault, Host.Outcome.next.injEq] at e
  exact e ▸ .same _

theorem effect_refuseStore (h : Nat) (a : Word64) (e : finishStore h a (refuse s) = .next t) : Effect i s t := by
  simp only [refuse, finishStore, State.raiseAccessFault, Host.Outcome.next.injEq] at e
  exact e ▸ .same _

/-- A load that answers bytes and changes nothing. -/
theorem effect_loaded (h : Nat) (k : LoadKind) (a : Word64) (b : Bytes) (e : finishLoad h k a (s, some b) = .next t) :
    Effect i s t := by
  simp only [finishLoad, Host.Outcome.next.injEq] at e
  exact e ▸ .same _

theorem effect_clintLoad (h : Nat) (k : LoadKind) (a : Word64) (r : LoadReq)
    (hr : Reaches s i .clint (.load r)) (e : finishLoad h k a (clintLoad r s) = .next t) : Effect i s t := by
  have hc : (clintLoad r s).1 = recomputeMtip (sampleIfRealTime s) := by
    simp only [clintLoad, clintFrame_eq]
    split <;> rfl
  rw [finishLoad_eq, hc, Host.Outcome.next.injEq] at e
  exact e ▸ .clint _ _ hr

theorem effect_clintStore (h : Nat) (a : Word64) (r : StoreReq) (hb : storedBytes i = some r.data)
    (hr : Reaches s i .clint (.store r)) (e : finishStore h a (clintStore r s) = .next t) : Effect i s t := by
  simp only [clintStore, clintFrame_eq] at e
  split at e
  · simp only [stMsip, finishStore_eq, Host.Outcome.next.injEq] at e
    exact e ▸ .msip r hb hr
  · simp only [stMtimecmp, finishStore_eq, Host.Outcome.next.injEq] at e
    exact e ▸ .mtimecmp _ r.data hb (by simp) _ hr
  · simp only [stMtime, finishStore_eq, Host.Outcome.next.injEq] at e
    exact e ▸ .mtime _ r.data hb _ hr
  · simp only [refuse, finishStore_eq, Host.Outcome.next.injEq] at e
    exact e ▸ .clint _ _ hr

/-- R232, with and without an eligible IRQ. -/
theorem effect_claim (h : Nat) (k : LoadKind) (a : Word64) (c : Nat) (x : Access)
    (hx : Reaches s i .plic x) (e : finishLoad h k a (ldClaim c s) = .next t) : Effect i s t := by
  simp only [ldClaim, finishLoad, Host.Outcome.next.injEq] at e
  by_cases h0 : best s c = 0
  · simp only [takeClaim, h0, if_true] at e
    exact e ▸ .idleClaim c h0 x hx
  · simp only [takeClaim, h0, if_false] at e
    exact e ▸ .claim c h0 x hx

theorem effect_plicLoad (h : Nat) (k : LoadKind) (a : Word64) (r : LoadReq)
    (hr : Reaches s i .plic (.load r)) (e : finishLoad h k a (plicLoad r s) = .next t) : Effect i s t := by
  unfold plicLoad at e
  split at e
  · split at e
    · exact effect_loaded _ _ _ _ e
    · exact effect_loaded _ _ _ _ e
    · exact effect_loaded _ _ _ _ e
    · exact effect_loaded _ _ _ _ e
    · exact effect_claim _ _ _ _ _ hr e
    · exact effect_refuseLoad _ _ _ e
  · exact effect_refuseLoad _ _ _ e

/-- R233, for an id and for any other value. -/
theorem effect_complete (h : Nat) (a : Word64) (b : Bytes) (hb : storedBytes i = some b) (hl : b.length = 4)
    (x : Access) (hx : Reaches s i .plic x) (e : finishStore h a (stComplete (storeValue b) s) = .next t) : Effect i s t := by
  simp only [stComplete, updated, finishStore, Host.Outcome.next.injEq] at e
  split at e
  · exact e ▸ .complete b hb hl x hx
  · exact e ▸ .idleComplete x hx

theorem effect_plicStore (h : Nat) (a : Word64) (r : StoreReq) (hb : storedBytes i = some r.data)
    (hr : Reaches s i .plic (.store r)) (e : finishStore h a (plicStore r s) = .next t) : Effect i s t := by
  unfold plicStore at e
  split at e
  · next hal =>
    have hl : r.data.length = 4 := by
      simp only [plicAligned, Bool.and_eq_true, decide_eq_true_eq] at hal
      exact hal.1
    split at e
    · simp only [stPriority, updated, finishStore, Host.Outcome.next.injEq] at e
      exact e ▸ .priority _ _ _ hr
    · exact effect_refuseStore _ _ e
    · simp only [stEnable, updated, finishStore, Host.Outcome.next.injEq] at e
      exact e ▸ .enable _ _ _ hr
    · simp only [stThreshold, updated, finishStore, Host.Outcome.next.injEq] at e
      refine e ▸ .threshold _ _ ?_ _ hr
      rw [BitVec.toNat_ofNat]
      exact (Nat.mod_le _ _).trans (Nat.min_le_right _ _)
    · exact effect_complete _ _ _ hb hl _ hr e
    · exact effect_refuseStore _ _ e
  · exact effect_refuseStore _ _ e

theorem effect_guardLoad (g : GuardDevice) (h : Nat) (k : LoadKind) (a : Word64) (r : LoadReq)
    (e : finishLoad h k a (guardLoad g r s) = .next t) : Effect i s t := by
  unfold guardLoad at e
  split at e
  · cases g <;> simp only [registerLoad] at e <;> split at e <;>
      first | exact effect_loaded _ _ _ _ e | exact effect_refuseLoad _ _ _ e
  · exact effect_refuseLoad _ _ _ e

theorem effect_pmpBlock (h : Nat) (a : Word64) (p k j : Nat) (b : Bytes) (x : PmpBlock) (hi : issuer i = some j)
    (hb : storedBytes i = some b) (ht : s.trusted j = true) (e : finishStore h a (stPmpBlock p k x s) = .next t) :
    Effect i s t := by
  unfold stPmpBlock at e
  split at e
  · exact effect_refuseStore _ _ e
  · next hl =>
    rw [finishStore_eq, Host.Outcome.next.injEq] at e
    exact e ▸ .block p k x j b hi hb ht (by simpa using hl)

theorem effect_guardStore (g : GuardDevice) (h : Nat) (a : Word64) (r : StoreReq) (hi : issuer i = some r.hart)
    (hb : storedBytes i = some r.data) (e : finishStore h a (guardStore g r s) = .next t) : Effect i s t := by
  unfold guardStore at e
  split at e
  · next ht =>
    cases g with
    | marker m =>
      simp only [registerStore] at e
      split at e
      · unfold stMarkerWid at e
        split at e
        · exact effect_refuseStore _ _ e
        · next hl =>
          split at e
          · exact effect_refuseStore _ _ e
          · next hw =>
            rw [finishStore_eq, Host.Outcome.next.injEq] at e
            exact e ▸ .marker m _ r.hart r.data hi hb ht (by simpa using hl) (.inr (Nat.not_lt.1 hw))
      · unfold stMarkerLock at e
        split at e
        · exact effect_refuseStore _ _ e
        · next hl =>
          rw [finishStore_eq, Host.Outcome.next.injEq] at e
          exact e ▸ .marker m _ r.hart r.data hi hb ht (by simpa using hl) (.inl rfl)
      · exact effect_refuseStore _ _ e
    | filter f =>
      simp only [registerStore] at e
      split at e
      · rw [stFilterWid, finishStore_eq, Host.Outcome.next.injEq] at e
        exact e ▸ .mask f _ r.hart r.data hi hb ht
      · exact effect_refuseStore _ _ e
    | pmp p =>
      simp only [registerStore] at e
      split at e
      · exact effect_pmpBlock _ _ _ _ _ _ _ hi hb ht e
      · exact effect_pmpBlock _ _ _ _ _ _ _ hi hb ht e
      · exact effect_pmpBlock _ _ _ _ _ _ _ hi hb ht e
      · exact effect_pmpBlock _ _ _ _ _ _ _ hi hb ht e
      · exact effect_refuseStore _ _ e
  · exact effect_refuseStore _ _ e

/-- A load at a port: the device's, or refused. -/
theorem effect_portLoad (d : Device) (r : LoadReq) (serve : State → Served)
    (hs : ∀ h k a, finishLoad h k a (serve s) = .next t → Effect i s t) (e : portLoad d r serve s = .next t) :
    Effect i s t := by
  unfold portLoad at e
  split at e
  · exact hs _ _ _ e
  · exact effect_refuseLoad _ _ _ e

/-- A store at a port: the device's, or refused. -/
theorem effect_portStore (d : Device) (r : StoreReq) (serve : State → Served)
    (hs : ∀ h a, finishStore h a (serve s) = .next t → Effect i s t) (e : portStore d r serve s = .next t) :
    Effect i s t := by
  unfold portStore at e
  split at e
  · exact hs _ _ e
  · exact effect_refuseStore _ _ e

theorem better_base (addr : Nat) (best : Option BusEntry) (e x : BusEntry) (hb : ∀ y, best = some y → y.base ≤ addr)
    (h : better addr best e = some x) : x.base ≤ addr := by
  unfold better at h
  split at h
  · split at h
    · split at h
      · cases h; assumption
      · cases h; exact hb _ rfl
    · cases h; assumption
  · exact hb _ h

/-- R163: the entry the lookup gives is not above the address. -/
theorem findDevice_base (bus : List BusEntry) (addr : Nat) (e : BusEntry) (h : findDevice bus addr = some e) :
    e.base ≤ addr := by
  have key : ∀ (l : List BusEntry) (o : Option BusEntry), (∀ y, o = some y → y.base ≤ addr) →
      l.foldl (better addr) o = some e → e.base ≤ addr := by
    intro l
    induction l with
    | nil => intro o ho h; exact ho e h
    | cons x l ih => intro o ho h; exact ih _ (fun y hy => better_base addr o x y ho hy) h
  exact key bus none (by simp) h

/-- R161's first half, read back. -/
theorem route_eq_some (s : State) (addr len : Nat) (e : BusEntry) :
    s.route addr len = some e ↔ len ≠ 0 ∧ findDevice s.bus addr = some e ∧ addr - e.base + len ≤ e.size := by
  unfold State.route
  split
  · next h => simp [h]
  · next h =>
    split
    · next x hx =>
      by_cases hle : addr - x.base + len ≤ x.size
      · simp only [hle, if_true, Option.some.injEq, ne_eq, h, not_false_eq_true, hx, true_and]
        constructor
        · rintro rfl; exact ⟨rfl, hle⟩
        · exact And.left
      · simp only [hle, if_false, hx, Option.some.injEq, false_iff, reduceCtorEq]
        rintro ⟨_, rfl, h2⟩
        exact hle h2
    · next hx => simp [hx]

/-- The lookup gives an entry of the list, or the one it started with. -/
theorem foldl_better_mem (addr : Nat) (l : List BusEntry) (o : Option BusEntry) (x : BusEntry)
    (h : l.foldl (better addr) o = some x) : x ∈ l ∨ o = some x := by
  induction l generalizing o with
  | nil => exact .inr h
  | cons y l ih =>
    rcases ih _ h with hx | hx
    · exact .inl (List.mem_cons_of_mem _ hx)
    · unfold better at hx
      split at hx
      · split at hx
        · split at hx
          · cases hx; simp
          · exact .inr hx
        · cases hx; simp
      · exact .inr hx

/-- R161, read back: what is routed lies inside an entry of the map. -/
theorem route_mem {s : State} {e : BusEntry} {addr len : Nat} (h : s.route addr len = some e) :
    1 ≤ len ∧ e ∈ s.bus ∧ e.base ≤ addr ∧ addr + len ≤ e.base + e.size := by
  unfold State.route at h
  split at h
  · cases h
  · split at h
    · next x hx =>
      split at h <;> cases h
      have hmem : e ∈ s.bus := by
        rcases foldl_better_mem _ _ _ _ hx with hx | hx
        · exact hx
        · cases hx
      have hb := findDevice_base _ _ _ hx
      exact ⟨by omega, hmem, hb, by omega⟩
    · cases h

theorem effect_busLoad (h len : Nat) (addr : Word64) (k : LoadKind) (hi : i = .busLoad h addr len k)
    (e : execBusLoad h addr len k s = .next t) : Effect i s t := by
  simp only [execBusLoad, busLoad] at e
  split at e
  · exact effect_refuseLoad _ _ _ e
  · next x hx =>
    obtain ⟨-, hm, h1, h2⟩ := route_mem hx
    split at e
    · unfold deviceLoad at e
      split at e
      · next hd => exact effect_clintLoad _ _ _ _ (.inr (.inl ⟨h, addr, len, k, x, hm, hi, hd, h1, h2, rfl⟩)) e
      · next hd => exact effect_plicLoad _ _ _ _ (.inr (.inl ⟨h, addr, len, k, x, hm, hi, hd, h1, h2, rfl⟩)) e
      · exact effect_guardLoad _ _ _ _ _ e
      · exact effect_guardLoad _ _ _ _ _ e
      · exact effect_guardLoad _ _ _ _ _ e
      · exact effect_loaded _ _ _ _ e
      · rw [externalLoad, finishLoad_eq, Host.Outcome.next.injEq] at e
        exact e ▸ .external _ _
    · exact effect_refuseLoad _ _ _ e

theorem effect_busStore (h : Nat) (addr : Word64) (b : Bytes) (hi : i = .busStore h addr b)
    (e : execBusStore h addr b s = .next t) : Effect i s t := by
  have hb : storedBytes i = some b := by rw [hi]; rfl
  have hh : issuer i = some h := by rw [hi]; rfl
  simp only [execBusStore, busStore] at e
  split at e
  · exact effect_refuseStore _ _ e
  · next x hx =>
    obtain ⟨-, hm, h1, h2⟩ := route_mem hx
    split at e
    · unfold deviceStore at e
      split at e
      · next hd => exact effect_clintStore _ _ _ hb (.inr (.inr ⟨h, addr, b, x, hm, hi, hd, h1, h2, rfl⟩)) e
      · next hd => exact effect_plicStore _ _ _ hb (.inr (.inr ⟨h, addr, b, x, hm, hi, hd, h1, h2, rfl⟩)) e
      · exact effect_guardStore _ _ _ _ hh hb e
      · exact effect_guardStore _ _ _ _ hh hb e
      · exact effect_guardStore _ _ _ _ hh hb e
      · rw [ramStore, finishStore_eq, Host.Outcome.next.injEq] at e
        simp only [show x.base + (addr.toNat - x.base) = addr.toNat by omega] at e
        exact e ▸ .ram h addr b hi
      · rw [externalStore, finishStore_eq, Host.Outcome.next.injEq] at e
        exact e ▸ .external _ _
    · exact effect_refuseStore _ _ e

/-- What an instruction can do: its next state is one of the listed effects. -/
theorem exec_effect (e : exec i s = .next t) : Effect i s t := by
  cases i with
  | busLoad h addr len k => exact effect_busLoad _ _ _ _ rfl e
  | busStore h addr b => exact effect_busStore _ _ _ rfl e
  | busAddDevice base d gs =>
    simp only [exec, execBusAddDevice] at e
    split at e
    · next hp =>
      split at e
      · next bus hbus => cases e; exact .added _ _ _ _ hp hbus rfl
      · cases e
    · cases e
    · cases e
  | sysConstruct c =>
    simp only [exec, execSysConstruct] at e
    split at e
    · next hp =>
      split at e
      · next u hu => cases e; exact .constructed _ _ hp hu
      · cases e
    · cases e
    · cases e
  | clintTick inc =>
    simp only [exec, execClintTick, Host.Outcome.next.injEq] at e
    exact e ▸ .tick inc rfl
  | plicSetPending irq l =>
    simp only [exec, execPlicSetPending] at e
    split at e
    · next h => cases e; exact .level irq l h rfl
    · cases e; exact .same _
  | wgfGate f h addr len k => cases e; exact .same _
  | wgpGate p h addr len k => cases e; exact .same _
  | clintLdMsip r =>
    exact effect_portLoad _ _ _ (fun _ _ _ => effect_clintLoad _ _ _ _ (.inl rfl)) ((execClintLdMsip_eq_port s r).symm.trans e)
  | clintStMsip r =>
    exact effect_portStore _ _ _ (fun _ _ => effect_clintStore _ _ _ rfl (.inl rfl)) ((execClintStMsip_eq_port s r).symm.trans e)
  | clintLdMtimecmp r =>
    exact effect_portLoad _ _ _ (fun _ _ _ => effect_clintLoad _ _ _ _ (.inl rfl)) ((execClintLdMtimecmp_eq_port s r).symm.trans e)
  | clintStMtimecmp r =>
    exact effect_portStore _ _ _ (fun _ _ => effect_clintStore _ _ _ rfl (.inl rfl)) ((execClintStMtimecmp_eq_port s r).symm.trans e)
  | clintLdMtime r =>
    exact effect_portLoad _ _ _ (fun _ _ _ => effect_clintLoad _ _ _ _ (.inl rfl)) ((execClintLdMtime_eq_port s r).symm.trans e)
  | clintStMtime r =>
    exact effect_portStore _ _ _ (fun _ _ => effect_clintStore _ _ _ rfl (.inl rfl)) ((execClintStMtime_eq_port s r).symm.trans e)
  | clintLdReserved r =>
    exact effect_portLoad _ _ _ (fun _ _ _ => effect_clintLoad _ _ _ _ (.inl rfl)) ((execClintLdReserved_eq_port s r).symm.trans e)
  | clintStReserved r =>
    exact effect_portStore _ _ _ (fun _ _ => effect_clintStore _ _ _ rfl (.inl rfl)) ((execClintStReserved_eq_port s r).symm.trans e)
  | plicMisaligned a =>
    cases a with
    | load r =>
      exact effect_portLoad _ _ _ (fun _ _ _ => effect_plicLoad _ _ _ _ (.inl rfl))
        ((execPlicMisaligned_load_eq_port s r).symm.trans e)
    | store r =>
      exact effect_portStore _ _ _ (fun _ _ => effect_plicStore _ _ _ rfl (.inl rfl))
        ((execPlicMisaligned_store_eq_port s r).symm.trans e)
  | plicLdPriority r =>
    exact effect_portLoad _ _ _ (fun _ _ _ => effect_plicLoad _ _ _ _ (.inl rfl)) ((execPlicLdPriority_eq_port s r).symm.trans e)
  | plicStPriority r =>
    exact effect_portStore _ _ _ (fun _ _ => effect_plicStore _ _ _ rfl (.inl rfl)) ((execPlicStPriority_eq_port s r).symm.trans e)
  | plicLdPending r =>
    exact effect_portLoad _ _ _ (fun _ _ _ => effect_plicLoad _ _ _ _ (.inl rfl)) ((execPlicLdPending_eq_port s r).symm.trans e)
  | plicStPending r =>
    exact effect_portStore _ _ _ (fun _ _ => effect_plicStore _ _ _ rfl (.inl rfl)) ((execPlicStPending_eq_port s r).symm.trans e)
  | plicLdEnable r =>
    exact effect_portLoad _ _ _ (fun _ _ _ => effect_plicLoad _ _ _ _ (.inl rfl)) ((execPlicLdEnable_eq_port s r).symm.trans e)
  | plicStEnable r =>
    exact effect_portStore _ _ _ (fun _ _ => effect_plicStore _ _ _ rfl (.inl rfl)) ((execPlicStEnable_eq_port s r).symm.trans e)
  | plicLdThreshold r =>
    exact effect_portLoad _ _ _ (fun _ _ _ => effect_plicLoad _ _ _ _ (.inl rfl)) ((execPlicLdThreshold_eq_port s r).symm.trans e)
  | plicStThreshold r =>
    exact effect_portStore _ _ _ (fun _ _ => effect_plicStore _ _ _ rfl (.inl rfl)) ((execPlicStThreshold_eq_port s r).symm.trans e)
  | plicLdClaim r =>
    exact effect_portLoad _ _ _ (fun _ _ _ => effect_plicLoad _ _ _ _ (.inl rfl)) ((execPlicLdClaim_eq_port s r).symm.trans e)
  | plicStComplete r =>
    exact effect_portStore _ _ _ (fun _ _ => effect_plicStore _ _ _ rfl (.inl rfl)) ((execPlicStComplete_eq_port s r).symm.trans e)
  | plicLdReserved r =>
    exact effect_portLoad _ _ _ (fun _ _ _ => effect_plicLoad _ _ _ _ (.inl rfl)) ((execPlicLdReserved_eq_port s r).symm.trans e)
  | plicStReserved r =>
    exact effect_portStore _ _ _ (fun _ _ => effect_plicStore _ _ _ rfl (.inl rfl)) ((execPlicStReserved_eq_port s r).symm.trans e)
  | wgUntrusted g a =>
    cases a with
    | load r =>
      exact effect_portLoad _ _ _ (fun _ _ _ => effect_guardLoad _ _ _ _ _)
        ((execWgUntrusted_load_eq_port s g r).symm.trans e)
    | store r =>
      exact effect_portStore _ _ _ (fun _ _ => effect_guardStore _ _ _ _ rfl rfl)
        ((execWgUntrusted_store_eq_port s g r).symm.trans e)
  | wgCrossing g a =>
    cases a with
    | load r =>
      exact effect_portLoad _ _ _ (fun _ _ _ => effect_guardLoad _ _ _ _ _)
        ((execWgCrossing_load_eq_port s g r).symm.trans e)
    | store r =>
      exact effect_portStore _ _ _ (fun _ _ => effect_guardStore _ _ _ _ rfl rfl)
        ((execWgCrossing_store_eq_port s g r).symm.trans e)
  | wgmLdWid m r =>
    exact effect_portLoad _ _ _ (fun _ _ _ => effect_guardLoad _ _ _ _ _) ((execWgmLdWid_eq_port s m r).symm.trans e)
  | wgmStWid m r =>
    exact effect_portStore _ _ _ (fun _ _ => effect_guardStore _ _ _ _ rfl rfl) ((execWgmStWid_eq_port s m r).symm.trans e)
  | wgmLdLock m r =>
    exact effect_portLoad _ _ _ (fun _ _ _ => effect_guardLoad _ _ _ _ _) ((execWgmLdLock_eq_port s m r).symm.trans e)
  | wgmStLock m r =>
    exact effect_portStore _ _ _ (fun _ _ => effect_guardStore _ _ _ _ rfl rfl) ((execWgmStLock_eq_port s m r).symm.trans e)
  | wgfLdWid f r =>
    exact effect_portLoad _ _ _ (fun _ _ _ => effect_guardLoad _ _ _ _ _) ((execWgfLdWid_eq_port s f r).symm.trans e)
  | wgfStWid f r =>
    exact effect_portStore _ _ _ (fun _ _ => effect_guardStore _ _ _ _ rfl rfl) ((execWgfStWid_eq_port s f r).symm.trans e)
  | wgpLdPerm p r =>
    exact effect_portLoad _ _ _ (fun _ _ _ => effect_guardLoad _ _ _ _ _) ((execWgpLdPerm_eq_port s p r).symm.trans e)
  | wgpStPerm p r =>
    exact effect_portStore _ _ _ (fun _ _ => effect_guardStore _ _ _ _ rfl rfl) ((execWgpStPerm_eq_port s p r).symm.trans e)
  | wgpLdBase p r =>
    exact effect_portLoad _ _ _ (fun _ _ _ => effect_guardLoad _ _ _ _ _) ((execWgpLdBase_eq_port s p r).symm.trans e)
  | wgpStBase p r =>
    exact effect_portStore _ _ _ (fun _ _ => effect_guardStore _ _ _ _ rfl rfl) ((execWgpStBase_eq_port s p r).symm.trans e)
  | wgpLdCount p r =>
    exact effect_portLoad _ _ _ (fun _ _ _ => effect_guardLoad _ _ _ _ _) ((execWgpLdCount_eq_port s p r).symm.trans e)
  | wgpStCount p r =>
    exact effect_portStore _ _ _ (fun _ _ => effect_guardStore _ _ _ _ rfl rfl) ((execWgpStCount_eq_port s p r).symm.trans e)
  | wgpLdLock p r =>
    exact effect_portLoad _ _ _ (fun _ _ _ => effect_guardLoad _ _ _ _ _) ((execWgpLdLock_eq_port s p r).symm.trans e)
  | wgpStLock p r =>
    exact effect_portStore _ _ _ (fun _ _ => effect_guardStore _ _ _ _ rfl rfl) ((execWgpStLock_eq_port s p r).symm.trans e)

end Sys2Proof.Machine
end

