-- ==== Sys2Proof/Laws/Memory.lean ====
section
/-! SUPPORT. Memory: a read after a write, and that every operation keeps the canonical form. -/

namespace Sys2Proof.Machine

/-- A byte below every listed address is unlisted. -/
theorem Memory.read_of_lt (m : Memory) (a : Nat) (h : ∀ c ∈ m, a < c.1) : Memory.read m a = unlistedByte := by
  induction m with
  | nil => rfl
  | cons c m ih =>
    have hc : ¬c.1 = a := by have := h c (by simp); omega
    simp only [Memory.read, hc, if_false]
    exact ih fun x hx => h x (by simp [hx])

/-- The read of one byte after the write of one byte. -/
theorem Memory.read_write (m : Memory) (a b : Nat) (v : Byte) (h : m.wf) :
    Memory.read (Memory.write m a v) b = if b = a then v else Memory.read m b := by
  induction m with
  | nil =>
    by_cases hv : v = unlistedByte <;> by_cases hb : b = a <;>
      simp_all [Memory.read, Memory.write, eq_comm]
  | cons c m ih =>
    obtain ⟨k, w⟩ := c
    obtain ⟨hs, hz⟩ := h
    rw [List.pairwise_cons] at hs
    have ih := ih ⟨hs.2, fun x hx => hz x (by simp [hx])⟩
    have hlt : ∀ x, x ≤ k → Memory.read m x = unlistedByte := fun x hx =>
      Memory.read_of_lt m x fun c hc => by have := hs.1 c hc; simp at this; omega
    simp only [Memory.write]
    split
    · next hak =>
      have hka : k ≠ a := by omega
      have hm : Memory.read m a = unlistedByte := hlt a (by omega)
      split
      · next hv =>
        by_cases hb : b = a
        · subst hb; simp [Memory.read, hka, hm, hv]
        · simp [hb]
      · by_cases hb : b = a
        · subst hb; simp [Memory.read]
        · simp [Memory.read, hb, Ne.symm hb]
    · split
      · next hka =>
        subst hka
        split
        · next hv =>
          by_cases hb : b = a
          · subst hb; simp [hlt b (by omega), hv]
          · simp [Memory.read, hb, Ne.symm hb]
        · by_cases hb : b = a
          · subst hb; simp [Memory.read]
          · simp [Memory.read, hb, Ne.symm hb]
      · next hne =>
        simp only [Memory.read]
        split
        · next hkb => subst hkb; simp [Ne.symm hne]
        · exact ih

/-- Every address of a written memory is the written one or was listed. -/
theorem Memory.mem_write (m : Memory) (a : Nat) (v : Byte) (c : Host.Cell) (h : c ∈ Memory.write m a v) :
    (c.1 = a ∧ c.2 = v ∧ v ≠ unlistedByte) ∨ c ∈ m := by
  induction m with
  | nil =>
    simp only [Memory.write] at h
    split at h <;> simp_all
  | cons x m ih =>
    simp only [Memory.write] at h
    split at h
    · split at h <;> simp_all
      obtain h | h | h := h <;> simp_all
    · split at h
      · split at h <;> simp_all
        obtain h | h := h <;> simp_all
      · simp only [List.mem_cons] at h ⊢
        obtain h | h := h
        · exact .inr (.inl h)
        · obtain h | h := ih h
          · exact .inl h
          · exact .inr (.inr h)

/-- A write keeps the canonical form. -/
theorem Memory.write_wf (m : Memory) (a : Nat) (v : Byte) (h : m.wf) : (Memory.write m a v).wf := by
  refine ⟨?_, fun c hc => ?_⟩
  · obtain ⟨hs, -⟩ := h
    induction m with
    | nil => simp only [Memory.write]; split <;> simp
    | cons c m ih =>
      rw [List.pairwise_cons] at hs
      simp only [Memory.write]
      split
      · split
        · exact List.pairwise_cons.2 hs
        · refine List.pairwise_cons.2 ⟨fun x hx => ?_, List.pairwise_cons.2 hs⟩
          obtain rfl | hx := List.mem_cons.1 hx
          · assumption
          · have := hs.1 x hx; omega
      · split
        · split
          · exact hs.2
          · next hka _ => exact List.pairwise_cons.2 ⟨fun x hx => by have := hs.1 x hx; omega, hs.2⟩
        · refine List.pairwise_cons.2 ⟨fun x hx => ?_, ih hs.2⟩
          obtain ⟨hx, -⟩ | hx := Memory.mem_write m a v x hx
          · rw [hx]; omega
          · exact hs.1 x hx
  · obtain ⟨-, h2, h3⟩ | hc := Memory.mem_write m a v c hc
    · exact h2 ▸ h3
    · exact h.2 c hc

/-- A store of bytes keeps the canonical form. -/
theorem Memory.writeBytes_wf (m : Memory) (a : Nat) (b : Bytes) (h : m.wf) : (Memory.writeBytes m a b).wf := by
  induction b generalizing m a with
  | nil => exact h
  | cons x b ih => exact ih _ _ (Memory.write_wf m a x h)

/-- A load of bytes changes nothing and returns as many bytes as asked. -/
@[simp] theorem Memory.readBytes_length (m : Memory) (a len : Nat) : (Memory.readBytes m a len).length = len := by
  simp [Memory.readBytes]

/-- The read of one byte after a store of bytes. -/
theorem Memory.read_writeBytes (m : Memory) (a c : Nat) (b : Bytes) (h : m.wf) :
    Memory.read (Memory.writeBytes m a b) c =
      if a ≤ c ∧ c < a + b.length then b.getD (c - a) 0#8 else Memory.read m c := by
  induction b generalizing m a with
  | nil => simp [Memory.writeBytes]
  | cons x b ih =>
    rw [Memory.writeBytes, ih _ _ (Memory.write_wf m a x h), Memory.read_write _ _ _ _ h]
    by_cases hc : c = a
    · subst hc; simp
    · by_cases hr : a + 1 ≤ c ∧ c < a + 1 + b.length
      · have h1 : a ≤ c ∧ c < a + (x :: b).length := by simp; omega
        have h2 : c - a = (c - (a + 1)) + 1 := by omega
        rw [if_pos hr, if_pos h1, h2, List.getD_cons_succ]
      · have h1 : ¬(a ≤ c ∧ c < a + (x :: b).length) := by simp; omega
        rw [if_neg hr, if_neg h1, if_neg hc]

/-- The memory of reset is in canonical form. -/
theorem reset_memory_wf : Memory.wf State.reset.mem := by decide

end Sys2Proof.Machine
end

