-- ==== Sys2Proof/Laws/Bus.lean ====
section
/-! SUPPORT. The bus (40_bus.md): which entry an access is routed to, and what a device's port does. -/

namespace Sys2Proof.Machine

/-! ## The lookup (R163) -/

/-- Entries above the address are passed over. -/
theorem foldl_better_skip (addr : Nat) (l : List BusEntry) (o : Option BusEntry) (h : ∀ x ∈ l, addr < x.base) :
    l.foldl (better addr) o = o := by
  induction l generalizing o with
  | nil => rfl
  | cons y l ih =>
    have hy : ¬y.base ≤ addr := by have := h y (by simp); omega
    rw [List.foldl_cons, show better addr o y = o from if_neg hy]
    exact ih _ fun x hx => h x (List.mem_cons_of_mem _ hx)

/-- R161: in a map without overlaps, an access of at least one byte inside an entry is routed to it. -/
theorem route_of_mem {s : State} (hm : s.BusMap) {e : BusEntry} (he : e ∈ s.bus) {addr len : Nat} (h1 : 1 ≤ len)
    (h2 : e.base ≤ addr) (h3 : addr + len ≤ e.base + e.size) : s.route addr len = some e := by
  obtain ⟨l, r, hl⟩ := List.append_of_mem he
  have hp := hm.1
  rw [hl, List.pairwise_append, List.pairwise_cons] at hp
  have hf : findDevice s.bus addr = some e := by
    rw [findDevice, hl, List.foldl_append, List.foldl_cons]
    have hr : ∀ x ∈ r, addr < x.base := fun x hx => by have := hp.2.1.1 x hx; omega
    rw [foldl_better_skip _ _ _ hr]
    unfold better
    rw [if_pos h2]
    split
    · next b hb =>
      rcases foldl_better_mem _ _ _ _ hb with hb | hb
      · have := hp.2.2 b hb e (by simp)
        rw [if_pos (by omega)]
      · cases hb
    · rfl
  rw [State.route, if_neg (by omega), hf]
  simp only
  rw [if_pos (by omega)]

/-! ## What a device answers -/

/-- A device that honours a load returns as many bytes as asked (R160). -/
theorem deviceLoad_length (e : BusEntry) (r : LoadReq) (s : State) (b : Bytes)
    (h : (deviceLoad e r s).2 = some b) : b.length = r.len := by
  unfold deviceLoad at h
  split at h
  · simp only [clintLoad, clintFrame_eq] at h
    split at h
    · next hf =>
      simp only [clintFamily, inside, Bool.and_eq_true, decide_eq_true_eq] at hf
      split at hf
      · simp only [ldMsip, Option.some.injEq] at h
        subst h
        apply window_length
        rw [msipBytes_length]; omega
      · split at hf; cases hf; split at hf <;> cases hf
    · next hf =>
      simp only [clintFamily, inside, Bool.and_eq_true, decide_eq_true_eq] at hf
      split at hf
      · cases hf
      · split at hf
        · simp only [ldMtimecmp, Option.some.injEq] at h
          subst h
          apply window_length
          rw [mtimecmpBytes_length]; omega
        · split at hf <;> cases hf
    · next hf =>
      simp only [clintFamily, inside, Bool.and_eq_true, decide_eq_true_eq] at hf
      split at hf
      · cases hf
      · split at hf
        · cases hf
        · split at hf
          · simp only [ldMtime, Option.some.injEq] at h
            subst h
            apply readWindow_length; omega
          · cases hf
    · simp [refuse] at h
  · simp only [plicLoad] at h
    split at h
    · next ha =>
      have : r.len = 4 := by simp [plicAligned] at ha; exact ha.1
      split at h <;>
        simp [ldPriority, ldPending, ldEnable, ldThreshold, ldClaim, loadWord, refuse] at h <;> subst h <;> simp [this]
    · simp [refuse] at h
  case h_6 => simp only [ramLoad, Option.some.injEq] at h; subst h; simp
  case h_7 =>
    simp only [externalLoad] at h
    split at h
    · cases h; simp
    · cases h
  all_goals
    simp only [guardLoad] at h
    split at h
    swap
    · simp [refuse] at h
    simp only [registerLoad] at h
  · split at h
    · next hf =>
      simp only [markerRegister, inside, Bool.and_eq_true, decide_eq_true_eq] at hf
      split at hf
      · simp only [ldMarkerWid, Option.some.injEq] at h; subst h; apply readWindow_length; omega
      · split at hf <;> cases hf
    · next hf =>
      simp only [markerRegister, inside, Bool.and_eq_true, decide_eq_true_eq] at hf
      split at hf
      · cases hf
      · split at hf
        · simp only [ldMarkerLock, Option.some.injEq] at h; subst h; apply readWindow_length; omega
        · cases hf
    · simp [refuse] at h
  · split at h
    · next hf =>
      simp only [filterRegister, inside, Bool.and_eq_true, decide_eq_true_eq] at hf
      simp only [ldFilterWid, Option.some.injEq] at h; subst h; apply readWindow_length; omega
    · simp [refuse] at h
  · split at h
    all_goals
      next hf =>
      simp only [pmpField, inside, Bool.and_eq_true, decide_eq_true_eq] at hf
      first
      | (simp [refuse] at h; done)
      | (simp only [ldPmpPerm, ldPmpBase, ldPmpCount, ldPmpLock, Option.some.injEq] at h
         subst h; apply readWindow_length
         split at hf <;> [skip; split at hf <;> [skip; split at hf <;> [skip; split at hf]]] <;> simp_all <;>
           omega)


/-! ## Rows at ports -/

/-- The access of a device's port, whichever row it is written as. -/
def atPort (d : Device) (a : Access) (s : State) : Out :=
  match a with
  | .load r => portLoad d r (deviceLoad ⟨0, 0, d, []⟩ r) s
  | .store r => portStore d r (deviceStore ⟨0, 0, d, []⟩ r) s

/-- Every device's row is the access at its device's port (R122, log entry 11). -/
theorem exec_eq_port {i : Instr} {d : Device} {a : Access} (h : portAccess i = some (d, a)) (s : State) :
    exec i s = atPort d a s := by
  cases i <;> simp only [portAccess, Option.some.injEq, Prod.mk.injEq, reduceCtorEq] at h <;>
    obtain ⟨rfl, rfl⟩ := h <;> simp only [exec, atPort]
  case plicMisaligned a =>
    cases a
    · exact execPlicMisaligned_load_eq_port s _
    · exact execPlicMisaligned_store_eq_port s _
  case wgUntrusted g a =>
    cases a
    · rw [execWgUntrusted_load_eq_port]; cases g <;> rfl
    · rw [execWgUntrusted_store_eq_port]; cases g <;> rfl
  case wgCrossing g a =>
    cases a
    · rw [execWgCrossing_load_eq_port]; cases g <;> rfl
    · rw [execWgCrossing_store_eq_port]; cases g <;> rfl
  case clintLdMsip => exact execClintLdMsip_eq_port s _
  case clintStMsip => exact execClintStMsip_eq_port s _
  case clintLdMtimecmp => exact execClintLdMtimecmp_eq_port s _
  case clintStMtimecmp => exact execClintStMtimecmp_eq_port s _
  case clintLdMtime => exact execClintLdMtime_eq_port s _
  case clintStMtime => exact execClintStMtime_eq_port s _
  case clintLdReserved => exact execClintLdReserved_eq_port s _
  case clintStReserved => exact execClintStReserved_eq_port s _
  case plicLdPriority => exact execPlicLdPriority_eq_port s _
  case plicStPriority => exact execPlicStPriority_eq_port s _
  case plicLdPending => exact execPlicLdPending_eq_port s _
  case plicStPending => exact execPlicStPending_eq_port s _
  case plicLdEnable => exact execPlicLdEnable_eq_port s _
  case plicStEnable => exact execPlicStEnable_eq_port s _
  case plicLdThreshold => exact execPlicLdThreshold_eq_port s _
  case plicStThreshold => exact execPlicStThreshold_eq_port s _
  case plicLdClaim => exact execPlicLdClaim_eq_port s _
  case plicStComplete => exact execPlicStComplete_eq_port s _
  case plicLdReserved => exact execPlicLdReserved_eq_port s _
  case plicStReserved => exact execPlicStReserved_eq_port s _
  case wgmLdWid => exact execWgmLdWid_eq_port s _ _
  case wgmStWid => exact execWgmStWid_eq_port s _ _
  case wgmLdLock => exact execWgmLdLock_eq_port s _ _
  case wgmStLock => exact execWgmStLock_eq_port s _ _
  case wgfLdWid => exact execWgfLdWid_eq_port s _ _
  case wgfStWid => exact execWgfStWid_eq_port s _ _
  case wgpLdPerm => exact execWgpLdPerm_eq_port s _ _
  case wgpStPerm => exact execWgpStPerm_eq_port s _ _
  case wgpLdBase => exact execWgpLdBase_eq_port s _ _
  case wgpStBase => exact execWgpStBase_eq_port s _ _
  case wgpLdCount => exact execWgpLdCount_eq_port s _ _
  case wgpStCount => exact execWgpStCount_eq_port s _ _
  case wgpLdLock => exact execWgpLdLock_eq_port s _ _
  case wgpStLock => exact execWgpStLock_eq_port s _ _

end Sys2Proof.Machine
end

