-- ==== Sys2Proof/Laws/Decode.lean ====
section
/-! SUPPORT. Each reader of a record's field gives back what its writer wrote, whatever words follow (log entry 1). -/

namespace Sys2Proof

variable (ws : Words)

/-! ## Plain fields -/

theorem parseNat_encNat (n : Nat) (h : fits n = true) : parseNat (encNat n ++ ws) = some (n, ws) := by
  simp only [fits, decide_eq_true_eq] at h
  simp [parseNat, encNat]; omega

theorem parseWord_cons (w : Word64) : parseWord ([w] ++ ws) = some (w, ws) := rfl

theorem parseBool_encBool (b : Bool) : parseBool (encBool b ++ ws) = some (b, ws) := by cases b <;> rfl

theorem parseBits_encByte (b : Byte) : parseBits 8 (encByte b ++ ws) = some (b, ws) := by
  simp [parseBits, encByte]; have := b.isLt; omega

theorem parseChar_encNat (c : Char) : parseChar (encNat c.toNat ++ ws) = some (c, ws) := by
  have hv : c.toNat.isValidChar := c.valid
  have h : c.toNat < 2 ^ 64 := lt_trans c.val.toNat_lt (by decide)
  simp only [parseChar, encNat, List.singleton_append, BitVec.toNat_ofNat, Nat.mod_eq_of_lt h, hv, if_true]
  simp

theorem parseLoadKind_encLoadKind (k : LoadKind) : parseLoadKind (encLoadKind k ++ ws) = some (k, ws) := by
  cases k <;> rfl

theorem parseAccessKind_encAccessKind (k : AccessKind) :
    parseAccessKind (encAccessKind k ++ ws) = some (k, ws) := by
  cases k <;> rfl

theorem parseAtomicKind_encAtomicKind (k : AtomicKind) :
    parseAtomicKind (encAtomicKind k ++ ws) = some (k, ws) := by
  cases k <;> rfl

theorem parseEdge_encEdge (e : EdgePolicy) : parseEdge (encEdge e ++ ws) = some (e, ws) := by cases e <;> rfl

/-! ## Lists -/

/-- The items of a list, when the reader of one item undoes its writer. -/
theorem parseMany_flatMap {α : Type} (p : Parse α) (enc : α → Words) (ok : α → Bool)
    (h : ∀ x ws, ok x = true → p (enc x ++ ws) = some (x, ws)) (xs : List α) (hx : xs.all ok = true) :
    parseMany p xs.length (xs.flatMap enc ++ ws) = some (xs, ws) := by
  induction xs with
  | nil => rfl
  | cons x xs ih =>
    simp only [List.all_cons, Bool.and_eq_true] at hx
    simp only [List.length_cons, parseMany, List.flatMap_cons, List.append_assoc, h x _ hx.1, ih hx.2,
      Option.bind_eq_bind, Option.bind_some]

theorem parseList_encList {α : Type} (p : Parse α) (enc : α → Words) (ok : α → Bool)
    (h : ∀ x ws, ok x = true → p (enc x ++ ws) = some (x, ws)) (xs : List α) (hl : fits xs.length = true)
    (hx : xs.all ok = true) : parseList p (encList enc xs ++ ws) = some (xs, ws) := by
  simp only [parseList, encList, List.append_assoc, parseNat_encNat _ _ hl]
  exact parseMany_flatMap ws p enc ok h xs hx

theorem parseData_encData (d : Bytes) (h : fits d.length = true) : parseData (encData d ++ ws) = some (d, ws) :=
  parseList_encList ws _ _ (fun _ => true) (fun x ws _ => parseBits_encByte ws x) d h (by simp)

/-! ## Devices, guards and the parts of a configuration -/

theorem fits_of_lt (n : Nat) (h : n < 100) : fits n = true := by simp [fits]; omega

theorem parseDevice_encDevice (d : Device) (h : d.wf = true) : parseDevice (encDevice d ++ ws) = some (d, ws) := by
  cases d <;> simp_all [parseNat_encNat, parseDevice, encDevice, Device.wf, List.append_assoc, fits_of_lt]

theorem parseGuard_encGuard (g : Guard) (h : g.wf = true) : parseGuard (encGuard g ++ ws) = some (g, ws) := by
  cases g <;> simp_all [parseNat_encNat, parseGuard, encGuard, Guard.wf, List.append_assoc, fits_of_lt]

theorem parseGuardDevice_encGuardDevice (d : GuardDevice) (h : d.wf = true) :
    parseGuardDevice (encGuardDevice d ++ ws) = some (d, ws) := by
  cases d <;>
    simp_all [parseNat_encNat, parseGuardDevice, encGuardDevice, GuardDevice.wf, List.append_assoc, fits_of_lt]

theorem parseGuards_encList (gs : List Guard) (h : fits gs.length = true) (hg : gs.all Guard.wf = true) :
    parseList parseGuard (encList encGuard gs ++ ws) = some (gs, ws) :=
  parseList_encList ws _ _ _ (fun x ws hx => parseGuard_encGuard ws x hx) gs h hg

theorem parseMapEntry_encMapEntry (e : MapEntry) (h : e.wf = true) :
    parseMapEntry (encMapEntry e ++ ws) = some (e, ws) := by
  simp only [MapEntry.wf, Bool.and_eq_true] at h
  simp only [parseMapEntry, encMapEntry, List.append_assoc, parseWord_cons, parseDevice_encDevice _ _ h.1.1,
    parseGuards_encList _ _ h.1.2 h.2, Option.bind_eq_bind, Option.bind_some]

theorem parseFilterParams_encFilterParams (f : FilterParams) (h : f.wf = true) :
    parseFilterParams (encFilterParams f ++ ws) = some (f, ws) := by
  simp only [FilterParams.wf, Bool.and_eq_true] at h
  simp only [parseFilterParams, encFilterParams, List.append_assoc, parseNat_encNat, h, Option.bind_eq_bind, Option.bind_some]

theorem parseMip_encMip (m : Mip) : parseMip (encMip m ++ ws) = some (m, ws) := by
  simp only [parseMip, encMip, List.append_assoc, parseBool_encBool, Option.bind_eq_bind, Option.bind_some]

theorem parseClintParams_encClintParams (c : Config) (h : c.wf = true) :
    parseClintParams (encClintParams c ++ ws)
      = some ((c.nHarts, c.freqHz, c.realTime, c.anchorUs, c.mtimecmpReset, c.mipReset), ws) := by
  simp only [Config.wf, Bool.and_eq_true] at h
  simp only [parseClintParams, encClintParams, List.append_assoc, parseNat_encNat, parseBool_encBool, h,
    parseList_encList _ _ _ (fun _ => true) (fun x ws _ => parseWord_cons ws x),
    parseList_encList _ _ _ (fun _ => true) (fun x ws _ => parseMip_encMip ws x), List.all_eq_true, implies_true,
    Option.bind_eq_bind, Option.bind_some]

theorem parsePlicParams_encPlicParams (c : Config) (h : c.wf = true) :
    parsePlicParams (encPlicParams c ++ ws)
      = some ((c.numSources, c.hartConfig, c.numPriorities, c.edgeWhileClaimed, c.plicSize), ws) := by
  simp only [Config.wf, Bool.and_eq_true] at h
  simp only [parsePlicParams, encPlicParams, List.append_assoc, parseNat_encNat, parseEdge_encEdge, h,
    parseList_encList _ _ _ (fun _ => true) (fun x ws _ => parseChar_encNat ws x), List.all_eq_true, implies_true,
    Option.bind_eq_bind, Option.bind_some]

theorem parsePlicLayout_encPlicLayout (c : Config) (h : c.wf = true) :
    parsePlicLayout (encPlicLayout c ++ ws)
      = some ((c.priorityBase, c.pendingBase, c.enableBase, c.enableStride, c.contextBase, c.contextStride), ws) := by
  simp only [Config.wf, Bool.and_eq_true] at h
  simp only [parsePlicLayout, encPlicLayout, List.append_assoc, parseNat_encNat, h, Option.bind_eq_bind,
    Option.bind_some]

theorem parseGuardParams_encGuardParams (c : Config) (h : c.wf = true) :
    parseGuardParams (encGuardParams c ++ ws)
      = some ((c.widTrusted, c.markerWidInit, c.filters, c.pmpBlocks), ws) := by
  simp only [Config.wf, Bool.and_eq_true] at h
  simp only [parseGuardParams, encGuardParams, List.append_assoc, parseNat_encNat, h,
    parseList_encList _ _ _ _ (fun x ws h => parseNat_encNat ws x h),
    parseList_encList _ _ _ _ (fun x ws h => parseFilterParams_encFilterParams ws x h), Option.bind_eq_bind,
    Option.bind_some]

theorem parseConfig_encConfig (c : Config) (h : c.wf = true) : parseConfig (encConfig c ++ ws) = some (c, ws) := by
  have hw := h
  simp only [Config.wf, Bool.and_eq_true] at hw
  simp only [parseConfig, encConfig, List.append_assoc, parseClintParams_encClintParams _ c h,
    parsePlicParams_encPlicParams _ c h, parsePlicLayout_encPlicLayout _ c h, parseGuardParams_encGuardParams _ c h,
    parseList_encList _ _ _ _ (fun x ws h => parseMapEntry_encMapEntry ws x h), hw, parseBool_encBool,
    Option.bind_eq_bind, Option.bind_some]

/-! ## Accesses -/

theorem parseLoadReq_encLoadRest (r : LoadReq) (h : r.wf = true) :
    parseLoadReq r.off (encLoadRest r ++ ws) = some (r, ws) := by
  simp only [LoadReq.wf, Bool.and_eq_true] at h
  simp only [parseLoadReq, encLoadRest, List.append_assoc, parseNat_encNat _ _ h.1.1, parseLoadKind_encLoadKind,
    parseNat_encNat _ _ h.2, Option.bind_eq_bind, Option.bind_some]

theorem parseStoreReq_encStoreRest (r : StoreReq) (h : r.wf = true) :
    parseStoreReq r.off (encStoreRest r ++ ws) = some (r, ws) := by
  simp only [StoreReq.wf, Bool.and_eq_true] at h
  simp only [parseStoreReq, encStoreRest, List.append_assoc, parseNat_encNat _ _ h.1.1, parseData_encData _ _ h.2,
    Option.bind_eq_bind, Option.bind_some]

theorem parseAccess_encAccessRest (a : Access) (h : a.wf = true) :
    parseAccess a.off (encAccessRest a ++ ws) = some (a, ws) := by
  cases a with
  | load r =>
    simp only [parseAccess, encAccessRest, List.append_assoc, parseNat_encNat _ 0 rfl, Access.off,
      parseLoadReq_encLoadRest _ r h, Option.bind_eq_bind, Option.bind_some]
  | store r =>
    simp only [parseAccess, encAccessRest, List.append_assoc, parseNat_encNat _ 1 rfl, Access.off,
      parseStoreReq_encStoreRest _ r h, Option.bind_eq_bind, Option.bind_some]

/-- The offset of a well-formed access is its record's word 0. -/
theorem LoadReq.off_mod (r : LoadReq) (h : r.wf = true) : r.off % 2 ^ 64 = r.off := by
  simp only [LoadReq.wf, fits, Bool.and_eq_true, decide_eq_true_eq] at h
  omega

theorem StoreReq.off_mod (r : StoreReq) (h : r.wf = true) : r.off % 2 ^ 64 = r.off := by
  simp only [StoreReq.wf, fits, Bool.and_eq_true, decide_eq_true_eq] at h
  omega

theorem Access.off_mod (a : Access) (h : a.wf = true) : a.off % 2 ^ 64 = a.off := by
  cases a
  · exact LoadReq.off_mod _ h
  · exact StoreReq.off_mod _ h

/-! ## Records and their bytes -/

theorem decode_record (head : Word64) (row : Nat) (rest : Words) (h : row < 2 ^ 64) :
    decode (record head row rest ++ ws) = parseRow row head (rest ++ ws) := by
  simp only [decode, record, List.cons_append, BitVec.toNat_ofNat, Nat.mod_eq_of_lt h]

/-- Every instruction's record starts with word 0 and its row's number. -/
theorem encode_eq_record (i : Instr) : ∃ head row rest, encode i = record head row rest ∧ row < 45 := by
  cases i <;> exact ⟨_, _, _, rfl, by decide⟩

theorem wordsOfBytes_wordBytes (w : Word64) (bs : Bytes) :
    wordsOfBytes (wordBytes w ++ bs) = (wordsOfBytes bs).map (w :: ·) := by
  simp only [wordBytes, List.cons_append, List.nil_append, wordsOfBytes, BitVec.toNat_ofNat]
  congr 1; funext x; congr 1
  apply BitVec.eq_of_toNat_eq
  simp only [BitVec.toNat_ofNat]
  have := w.isLt
  generalize w.toNat = n at *
  omega

theorem wordsOfBytes_bytesOfWords : wordsOfBytes (bytesOfWords ws) = some ws := by
  induction ws with
  | nil => rfl
  | cons w ws ih => simp only [bytesOfWords, wordsOfBytes_wordBytes, ih, Option.map_some]

theorem bytesOfWords_append (vs : Words) : bytesOfWords (vs ++ ws) = bytesOfWords vs ++ bytesOfWords ws := by
  induction vs with
  | nil => rfl
  | cons w vs ih => simp [bytesOfWords, ih]

end Sys2Proof
end

