-- ==== Sys2Proof/Laws/PerInstr.lean ====
section
/-! SUPPORT. Statements about every instruction, one lemma per constructor. Family Selector: word 1 of an instruction's
record is its row's number in spec/opcode_table.json (log entry 1). -/

namespace Sys2Proof.Laws.Selector

/-- The row's number in spec/opcode_table.json. -/
def row : Instr → Nat
  | .busLoad _ _ _ _ => 0
  | .busStore _ _ _ => 1
  | .busAddDevice _ _ _ => 2
  | .sysConstruct _ => 3
  | .clintLdMsip _ => 4
  | .clintStMsip _ => 5
  | .clintLdMtimecmp _ => 6
  | .clintStMtimecmp _ => 7
  | .clintLdMtime _ => 8
  | .clintStMtime _ => 9
  | .clintLdReserved _ => 10
  | .clintStReserved _ => 11
  | .clintTick _ => 12
  | .plicMisaligned _ => 13
  | .plicLdPriority _ => 14
  | .plicStPriority _ => 15
  | .plicLdPending _ => 16
  | .plicStPending _ => 17
  | .plicLdEnable _ => 18
  | .plicStEnable _ => 19
  | .plicLdThreshold _ => 20
  | .plicStThreshold _ => 21
  | .plicLdClaim _ => 22
  | .plicStComplete _ => 23
  | .plicLdReserved _ => 24
  | .plicStReserved _ => 25
  | .plicSetPending _ _ => 26
  | .wgUntrusted _ _ => 27
  | .wgCrossing _ _ => 28
  | .wgmLdWid _ _ => 29
  | .wgmStWid _ _ => 30
  | .wgmLdLock _ _ => 31
  | .wgmStLock _ _ => 32
  | .wgfLdWid _ _ => 33
  | .wgfStWid _ _ => 34
  | .wgfGate _ _ _ _ _ => 35
  | .wgpLdPerm _ _ => 36
  | .wgpStPerm _ _ => 37
  | .wgpLdBase _ _ => 38
  | .wgpStBase _ _ => 39
  | .wgpLdCount _ _ => 40
  | .wgpStCount _ _ => 41
  | .wgpLdLock _ _ => 42
  | .wgpStLock _ _ => 43
  | .wgpGate _ _ _ _ _ => 44

/-- The record carries its row's number in word 1. -/
def Statement (i : Instr) : Prop := (encode i)[1]? = some (BitVec.ofNat 64 (row i))

theorem busLoad (hart : Nat) (addr : Word64) (len : Nat) (kind : LoadKind) : Statement (.busLoad hart addr len kind) := rfl
theorem busStore (hart : Nat) (addr : Word64) (data : Bytes) : Statement (.busStore hart addr data) := rfl
theorem busAddDevice (base : Word64) (device : Device) (guards : List Guard) : Statement (.busAddDevice base device guards) := rfl
theorem sysConstruct (params : Config) : Statement (.sysConstruct params) := rfl
theorem clintLdMsip (r : LoadReq) : Statement (.clintLdMsip r) := rfl
theorem clintStMsip (r : StoreReq) : Statement (.clintStMsip r) := rfl
theorem clintLdMtimecmp (r : LoadReq) : Statement (.clintLdMtimecmp r) := rfl
theorem clintStMtimecmp (r : StoreReq) : Statement (.clintStMtimecmp r) := rfl
theorem clintLdMtime (r : LoadReq) : Statement (.clintLdMtime r) := rfl
theorem clintStMtime (r : StoreReq) : Statement (.clintStMtime r) := rfl
theorem clintLdReserved (r : LoadReq) : Statement (.clintLdReserved r) := rfl
theorem clintStReserved (r : StoreReq) : Statement (.clintStReserved r) := rfl
theorem clintTick (inc : Word64) : Statement (.clintTick inc) := rfl
theorem plicMisaligned (a : Access) : Statement (.plicMisaligned a) := rfl
theorem plicLdPriority (r : LoadReq) : Statement (.plicLdPriority r) := rfl
theorem plicStPriority (r : StoreReq) : Statement (.plicStPriority r) := rfl
theorem plicLdPending (r : LoadReq) : Statement (.plicLdPending r) := rfl
theorem plicStPending (r : StoreReq) : Statement (.plicStPending r) := rfl
theorem plicLdEnable (r : LoadReq) : Statement (.plicLdEnable r) := rfl
theorem plicStEnable (r : StoreReq) : Statement (.plicStEnable r) := rfl
theorem plicLdThreshold (r : LoadReq) : Statement (.plicLdThreshold r) := rfl
theorem plicStThreshold (r : StoreReq) : Statement (.plicStThreshold r) := rfl
theorem plicLdClaim (r : LoadReq) : Statement (.plicLdClaim r) := rfl
theorem plicStComplete (r : StoreReq) : Statement (.plicStComplete r) := rfl
theorem plicLdReserved (r : LoadReq) : Statement (.plicLdReserved r) := rfl
theorem plicStReserved (r : StoreReq) : Statement (.plicStReserved r) := rfl
theorem plicSetPending (irq : Nat) (level : Bool) : Statement (.plicSetPending irq level) := rfl
theorem wgUntrusted (g : GuardDevice) (a : Access) : Statement (.wgUntrusted g a) := rfl
theorem wgCrossing (g : GuardDevice) (a : Access) : Statement (.wgCrossing g a) := rfl
theorem wgmLdWid (m : Nat) (r : LoadReq) : Statement (.wgmLdWid m r) := rfl
theorem wgmStWid (m : Nat) (r : StoreReq) : Statement (.wgmStWid m r) := rfl
theorem wgmLdLock (m : Nat) (r : LoadReq) : Statement (.wgmLdLock m r) := rfl
theorem wgmStLock (m : Nat) (r : StoreReq) : Statement (.wgmStLock m r) := rfl
theorem wgfLdWid (f : Nat) (r : LoadReq) : Statement (.wgfLdWid f r) := rfl
theorem wgfStWid (f : Nat) (r : StoreReq) : Statement (.wgfStWid f r) := rfl
theorem wgfGate (f : Nat) (hart : Nat) (addr : Word64) (len : Nat) (kind : AccessKind) : Statement (.wgfGate f hart addr len kind) := rfl
theorem wgpLdPerm (p : Nat) (r : LoadReq) : Statement (.wgpLdPerm p r) := rfl
theorem wgpStPerm (p : Nat) (r : StoreReq) : Statement (.wgpStPerm p r) := rfl
theorem wgpLdBase (p : Nat) (r : LoadReq) : Statement (.wgpLdBase p r) := rfl
theorem wgpStBase (p : Nat) (r : StoreReq) : Statement (.wgpStBase p r) := rfl
theorem wgpLdCount (p : Nat) (r : LoadReq) : Statement (.wgpLdCount p r) := rfl
theorem wgpStCount (p : Nat) (r : StoreReq) : Statement (.wgpStCount p r) := rfl
theorem wgpLdLock (p : Nat) (r : LoadReq) : Statement (.wgpLdLock p r) := rfl
theorem wgpStLock (p : Nat) (r : StoreReq) : Statement (.wgpStLock p r) := rfl
theorem wgpGate (p : Nat) (hart : Nat) (addr : Word64) (len : Nat) (kind : AccessKind) : Statement (.wgpGate p hart addr len kind) := rfl

end Sys2Proof.Laws.Selector
end

