-- ==== Sys2Proof/Laws/PlicLines.lean ====
section
/-! SUPPORT. The PLIC: the offsets of its register rows (30_encoding.md R124), what a source must meet to be eligible
(42_plic.md R230), and what Update leaves in MEIP and SEIP (R234). -/

namespace Sys2Proof.Machine

/-! ## Offsets -/

/-- The enable row, solved for its context and word. -/
theorem enable_offset_iff (EB ES A W off a w : Nat) (h : 4 * W ≤ ES) (hW : 0 < W) :
    (a < A ∧ w < W ∧ off = EB + a * ES + 4 * w) ↔
      (EB ≤ off ∧ (off - EB) / ES < A ∧ (off - EB) % ES % 4 = 0 ∧ (off - EB) % ES / 4 < W)
        ∧ (off - EB) / ES = a ∧ (off - EB) % ES / 4 = w := by
  constructor
  · rintro ⟨ha, hw, rfl⟩
    have e : EB + a * ES + 4 * w - EB = 4 * w + ES * a := by rw [Nat.mul_comm]; omega
    have hlt : 4 * w < ES := by omega
    rw [e, Nat.add_mul_div_left _ _ (by omega), Nat.add_mul_mod_self_left, Nat.mod_eq_of_lt hlt, Nat.div_eq_of_lt hlt]
    omega
  · rintro ⟨⟨h1, h2, h3, h4⟩, rfl, rfl⟩
    refine ⟨h2, h4, ?_⟩
    have := Nat.div_add_mod (off - EB) ES
    rw [Nat.mul_comm] at this
    omega

/-- The rows of a context's block, solved for the context. -/
theorem context_offset_iff (CB CS A off a d : Nat) (h : 8 ≤ CS) (hd : d < 8) :
    (a < A ∧ off = CB + a * CS + d) ↔
      (CB ≤ off ∧ (off - CB) / CS < A ∧ (off - CB) % CS = d) ∧ (off - CB) / CS = a := by
  constructor
  · rintro ⟨ha, rfl⟩
    have e : CB + a * CS + d - CB = d + CS * a := by rw [Nat.mul_comm]; omega
    have hlt : d < CS := by omega
    rw [e, Nat.add_mul_div_left _ _ (by omega), Nat.add_mul_mod_self_left, Nat.mod_eq_of_lt hlt, Nat.div_eq_of_lt hlt]
    omega
  · rintro ⟨⟨h1, h2, h3⟩, rfl⟩
    refine ⟨h2, ?_⟩
    have := Nat.div_add_mod (off - CB) CS
    rw [Nat.mul_comm] at this
    omega

/-- The enable row lies in its region. -/
theorem enable_offset_bound (EB ES A W off : Nat) (hs : 4 * W ≤ ES)
    (h : EB ≤ off ∧ (off - EB) / ES < A ∧ (off - EB) % ES % 4 = 0 ∧ (off - EB) % ES / 4 < W) :
    EB ≤ off ∧ off < EB + A * ES := by
  obtain ⟨h1, h2, h3, h4⟩ := h
  have : off - EB < A * ES := (Nat.div_lt_iff_lt_mul (by omega)).1 h2
  omega

/-! ## Eligibility -/

/-- R230's test, as the statement of it. -/
theorem eligible_iff (s : State) (a i : Nat) : eligible s a i = true ↔ Eligible s a i := by
  simp only [eligible, Eligible, Bool.and_eq_true, decide_eq_true_eq, Bool.not_eq_true']
  tauto

/-! ## Update -/

/-- What a run of context turns leaves in the two lines of a hart: the bit as it was where no context drives it, the
context's line where one does. -/
theorem driveContext_foldl (s : State) (cs : List Context) (mip : List Mip)
    (hd : cs.Pairwise (fun x y => ¬(x.hartid = y.hartid ∧ x.mode = y.mode))) (h : Nat) (d : Mip) :
    ((∀ c ∈ cs, ¬(c.hartid = h ∧ c.mode = .m)) → ((cs.foldl (driveContext s) mip).getD h d).meip = (mip.getD h d).meip)
      ∧ ((∀ c ∈ cs, ¬(c.hartid = h ∧ c.mode = .s)) →
          ((cs.foldl (driveContext s) mip).getD h d).seip = (mip.getD h d).seip)
      ∧ (h < mip.length → ∀ c ∈ cs, c.hartid = h →
          (c.mode = .m → ((cs.foldl (driveContext s) mip).getD h d).meip = decide (best s c.addrid ≠ 0))
            ∧ (c.mode = .s → ((cs.foldl (driveContext s) mip).getD h d).seip = decide (best s c.addrid ≠ 0))) := by
  induction cs generalizing mip with
  | nil => simp
  | cons c cs ih =>
    simp only [List.foldl_cons]
    obtain ⟨i1, i2, i3⟩ := ih (driveContext s mip c) (List.pairwise_cons.1 hd).2
    have hd1 := (List.pairwise_cons.1 hd).1
    refine ⟨?_, ?_, ?_⟩
    · intro hh
      rw [i1 (fun c hc => hh c (List.mem_cons_of_mem _ hc)), driveContext_getD]
      split
      · next hx => rw [driveLine_meip, if_neg]; intro hm; exact hh c (by simp) ⟨hx.1.symm, hm⟩
      · rfl
    · intro hh
      rw [i2 (fun c hc => hh c (List.mem_cons_of_mem _ hc)), driveContext_getD]
      split
      · next hx => rw [driveLine_seip, if_neg]; intro hm; exact hh c (by simp) ⟨hx.1.symm, hm⟩
      · rfl
    · intro hl c' hc' hh
      rcases List.mem_cons.1 hc' with rfl | hc'
      · constructor
        · intro hm
          rw [i1 (fun c hc hx => hd1 c hc ⟨by rw [hh, hx.1], by rw [hm, hx.2]⟩), driveContext_getD,
            if_pos ⟨hh.symm, hl⟩, driveLine_meip, if_pos hm]
        · intro hm
          rw [i2 (fun c hc hx => hd1 c hc ⟨by rw [hh, hx.1], by rw [hm, hx.2]⟩), driveContext_getD,
            if_pos ⟨hh.symm, hl⟩, driveLine_seip, if_pos hm]
      · exact i3 (by rw [driveContext_length]; exact hl) c' hc' hh


end Sys2Proof.Machine
end

