-- ==== Sys2Proof/Laws/Step.lean ====
section
/-! SUPPORT. What a step can do: nothing, an instruction at the state without its record, or a hart operation that only
leaves an output. -/

namespace Sys2Proof.Machine

variable {s t : State}

/-- The end of an atomic access: the output, and nothing else. -/
theorem serveAtomic_eq (k : AtomicKind) (h : Nat) (addr : Word64) (s : State) :
    serveAtomic k h addr s = .next (s.setOut (.accessFault ⟨h, if k = .lr then .load else .store, addr⟩)) := by
  cases k <;> rfl

/-- The three ways a step answers a next state. -/
theorem step_next (e : step s = .next t) :
    (s.queue = [] ∧ t = s)
      ∨ (∃ bytes rest i, s.queue = bytes :: rest ∧ decodeRecord bytes = some (.transaction i)
          ∧ (isConfiguration i = false → s.phase ≠ .unbuilt) ∧ exec i (s.take rest (isConfiguration i)) = .next t)
      ∨ (s.phase ≠ .unbuilt ∧ ∃ rest o, t = (s.take rest false).setOut o) := by
  unfold step State.fetch at e
  cases hq : s.queue with
  | nil => rw [hq] at e; cases e; exact .inl ⟨rfl, rfl⟩
  | cons bytes rest =>
    rw [hq] at e
    right
    cases hd : decodeRecord bytes with
    | none => simp [hd] at e
    | some r =>
      simp only [hd] at e
      cases r with
      | transaction i =>
        by_cases hc : isConfiguration i = true
        · simp only [hc, if_true] at e
          exact .inl ⟨bytes, rest, i, rfl, hd, by simp [hc], by rwa [hc]⟩
        · by_cases hp : s.phase = .unbuilt
          · simp [hc, hp] at e
          · simp only [hc, hp] at e
            exact .inl ⟨bytes, rest, i, rfl, hd, fun _ => hp, by simpa [hc] using e⟩
      | atomic k h addr =>
        by_cases hp : s.phase = .unbuilt
        · simp [hp] at e
        · simp only [hp, if_false, serveAtomic_eq, Host.Outcome.next.injEq] at e
          exact .inr ⟨hp, rest, _, e.symm⟩
      | fence h =>
        by_cases hp : s.phase = .unbuilt
        · simp [hp] at e
        · simp only [hp, if_false, serveFence, Host.Outcome.next.injEq] at e
          exact .inr ⟨hp, rest, _, e.symm⟩

end Sys2Proof.Machine
end

