-- ==== Sys2Proof/Tests/Slice0.lean ====
section
/-! SUPPORT. Tests: ill-formed terms that WellFormed refuses; records written out word by word (log entry 1); single steps
against the worked examples and vectors of spec/95_test_vectors.md, each cited by its id; and for every obligation with
hypotheses a state and operands that meet them. -/

-- The checks run one after another: side by side they hold more threads than the build of the package as one text has.
set_option Elab.async false

namespace Sys2Proof.Tests

open Sys2Proof Sys2Proof.Machine

/-! ## WellFormed refuses -/

theorem test_fits_refuses : fits (2 ^ 64) = false ∧ fits (2 ^ 64 - 1) = true := by decide

theorem test_wf_load_hart : (Instr.busLoad (2 ^ 64) 0#64 4 .load).wf = false := by decide

theorem test_wf_load_len : (Instr.busLoad 0 0#64 (2 ^ 64) .load).wf = false := by decide

theorem test_wf_store_hart : (Instr.busStore (2 ^ 64) 0#64 []).wf = false := by decide

theorem test_wf_loadReq_hart : (Instr.clintLdMsip ⟨2 ^ 64, .load, 0, 4⟩).wf = false := by decide

theorem test_wf_loadReq_off : (Instr.clintLdMtime ⟨0, .load, 2 ^ 64, 4⟩).wf = false := by decide

theorem test_wf_loadReq_len : (Instr.plicLdClaim ⟨0, .load, 0, 2 ^ 64⟩).wf = false := by decide

theorem test_wf_storeReq_hart : (Instr.clintStMsip ⟨2 ^ 64, 0, []⟩).wf = false := by decide

theorem test_wf_storeReq_off : (Instr.plicStEnable ⟨0, 2 ^ 64, []⟩).wf = false := by decide

theorem test_wf_access : (Instr.plicMisaligned (.store ⟨0, 2 ^ 64, []⟩)).wf = false := by decide

theorem test_wf_irq : (Instr.plicSetPending (2 ^ 64) true).wf = false := by decide

theorem test_wf_guardDevice : (Instr.wgUntrusted (.pmp (2 ^ 64)) (.load ⟨0, .load, 0, 4⟩)).wf = false := by decide

theorem test_wf_guardDevice_marker : (Instr.wgCrossing (.marker (2 ^ 64)) (.load ⟨0, .load, 0, 4⟩)).wf = false := by
  decide

theorem test_wf_guardDevice_filter : (Instr.wgCrossing (.filter (2 ^ 64)) (.load ⟨0, .load, 0, 4⟩)).wf = false := by
  decide

theorem test_wf_index : (Instr.wgmLdWid (2 ^ 64) ⟨0, .load, 0, 4⟩).wf = false := by decide

theorem test_wf_gate : (Instr.wgpGate 0 (2 ^ 64) 0#64 4 .load).wf = false := by decide

theorem test_wf_device_index :
    (Instr.busAddDevice 0#64 (.marker (2 ^ 64)) []).wf = false ∧ (Instr.busAddDevice 0#64 (.filter (2 ^ 64)) []).wf = false
      ∧ (Instr.busAddDevice 0#64 (.pmp (2 ^ 64)) []).wf = false := by decide

theorem test_wf_device_size :
    (Instr.busAddDevice 0#64 (.ram (2 ^ 64)) []).wf = false ∧ (Instr.busAddDevice 0#64 (.external (2 ^ 64) 1) []).wf = false
      ∧ (Instr.busAddDevice 0#64 (.external 1 (2 ^ 64)) []).wf = false := by decide

theorem test_wf_guards :
    (Instr.busAddDevice 0#64 .clint [.filter (2 ^ 64)]).wf = false
      ∧ (Instr.busAddDevice 0#64 .clint [.pmp (2 ^ 64)]).wf = false := by decide

theorem test_wf_mapEntry : MapEntry.wf ⟨0#64, .ram (2 ^ 64), []⟩ = false ∧ MapEntry.wf ⟨0#64, .clint, [.pmp (2 ^ 64)]⟩ = false := by
  decide

theorem test_wf_filterParams :
    FilterParams.wf ⟨2 ^ 64, 0, 0, 0⟩ = false ∧ FilterParams.wf ⟨0, 2 ^ 64, 0, 0⟩ = false
      ∧ FilterParams.wf ⟨0, 0, 2 ^ 64, 0⟩ = false ∧ FilterParams.wf ⟨0, 0, 0, 2 ^ 64⟩ = false := by decide

/-- Each natural parameter of R11 is checked. -/
theorem test_wf_config :
    Config.wf { Config.standard with nHarts := 2 ^ 64 } = false ∧ Config.wf { Config.standard with freqHz := 2 ^ 64 } = false
      ∧ Config.wf { Config.standard with anchorUs := 2 ^ 64 } = false
      ∧ Config.wf { Config.standard with numSources := 2 ^ 64 } = false
      ∧ Config.wf { Config.standard with numPriorities := 2 ^ 64 } = false
      ∧ Config.wf { Config.standard with plicSize := 2 ^ 64 } = false
      ∧ Config.wf { Config.standard with widTrusted := 2 ^ 64 } = false := by decide

theorem test_wf_config_layout :
    Config.wf { Config.standard with priorityBase := 2 ^ 64 } = false
      ∧ Config.wf { Config.standard with pendingBase := 2 ^ 64 } = false
      ∧ Config.wf { Config.standard with enableBase := 2 ^ 64 } = false
      ∧ Config.wf { Config.standard with enableStride := 2 ^ 64 } = false
      ∧ Config.wf { Config.standard with contextBase := 2 ^ 64 } = false
      ∧ Config.wf { Config.standard with contextStride := 2 ^ 64 } = false := by decide

theorem test_wf_config_lists :
    Config.wf { Config.standard with markerWidInit := [2 ^ 64] } = false
      ∧ Config.wf { Config.standard with filters := [⟨2 ^ 64, 0, 0, 0⟩] } = false
      ∧ Config.wf { Config.standard with pmpBlocks := [2 ^ 64] } = false
      ∧ Config.wf { Config.standard with deviceMap := [⟨0#64, .ram (2 ^ 64), []⟩] } = false := by decide

theorem test_wf_standard : Config.wf Config.standard = true := by decide

theorem test_wf_request : Request.wf (.fence (2 ^ 64)) = false ∧ Request.wf (.atomic .amo (2 ^ 64) 0#64) = false := by decide

/-! ## Records, word by word: word 0, the row, then the fields of R120 in order (log entry 1) -/

theorem test_decode_busLoad :
    decode [0x0200BFF8#64, 0#64, 1#64, 1#64, 8#64] = some (.busLoad 1 0x0200BFF8#64 8 .fetch, []) := by decide

theorem test_decode_busStore :
    decode [0x02000000#64, 1#64, 0#64, 2#64, 0xFE#64, 0xCA#64]
      = some (.busStore 0 0x02000000#64 [0xFE#8, 0xCA#8], []) := by decide

theorem test_decode_busAddDevice :
    decode [0x90000000#64, 2#64, 6#64, 9#64, 0x100#64, 2#64, 0#64, 3#64, 1#64, 4#64]
      = some (.busAddDevice 0x90000000#64 (.external 9 0x100) [.filter 3, .pmp 4], []) := by decide

/-- One hart, one compare value, one mip row, one source, "M", one filter, one PMP, one device: every field in order. -/
theorem test_decode_sysConstruct :
    decode ([0#64, 3#64, 1#64, 10#64, 1#64, 7#64, 1#64, 0xFF#64, 1#64, 0#64, 1#64, 0#64, 1#64]
        ++ [5#64, 1#64, 0x4D#64, 6#64, 1#64, 0x1000#64, 11#64, 12#64, 13#64, 14#64, 15#64, 16#64]
        ++ [3#64, 1#64, 2#64, 1#64, 21#64, 22#64, 1#64, 0x24#64, 1#64, 2#64, 1#64, 0x8000#64, 5#64, 0x40#64, 0#64, 1#64])
      = some (.sysConstruct
          { nHarts := 1, freqHz := 10, realTime := true, anchorUs := 7, mtimecmpReset := [0xFF#64],
            mipReset := [⟨false, true, false, true⟩], numSources := 5, hartConfig := ['M'], numPriorities := 6,
            edgeWhileClaimed := .drop, plicSize := 0x1000, priorityBase := 11, pendingBase := 12, enableBase := 13,
            enableStride := 14, contextBase := 15, contextStride := 16, widTrusted := 3, markerWidInit := [2],
            filters := [⟨21, 22, 1, 0x24⟩], pmpBlocks := [2], deviceMap := [⟨0x8000#64, .ram 0x40, []⟩],
            fetchViaBus := true }, []) := by decide +kernel

theorem test_decode_clint_loads :
    decode [0x4#64, 4#64, 1#64, 0#64, 4#64] = some (.clintLdMsip ⟨1, .load, 0x4, 4⟩, [])
      ∧ decode [0x4008#64, 6#64, 0#64, 0#64, 8#64] = some (.clintLdMtimecmp ⟨0, .load, 0x4008, 8⟩, [])
      ∧ decode [0xBFF8#64, 8#64, 0#64, 0#64, 8#64] = some (.clintLdMtime ⟨0, .load, 0xBFF8, 8⟩, [])
      ∧ decode [0x8#64, 10#64, 0#64, 1#64, 4#64] = some (.clintLdReserved ⟨0, .fetch, 0x8, 4⟩, []) := by decide

theorem test_decode_clint_stores :
    decode [0x4#64, 5#64, 1#64, 1#64, 1#64] = some (.clintStMsip ⟨1, 0x4, [1#8]⟩, [])
      ∧ decode [0x4000#64, 7#64, 0#64, 1#64, 2#64] = some (.clintStMtimecmp ⟨0, 0x4000, [2#8]⟩, [])
      ∧ decode [0xBFFF#64, 9#64, 0#64, 1#64, 3#64] = some (.clintStMtime ⟨0, 0xBFFF, [3#8]⟩, [])
      ∧ decode [0x9000#64, 11#64, 0#64, 1#64, 4#64] = some (.clintStReserved ⟨0, 0x9000, [4#8]⟩, []) := by decide

theorem test_decode_clintTick : decode [0x100#64, 12#64] = some (.clintTick 0x100#64, []) := by decide

theorem test_decode_plic_loads :
    decode [0x4#64, 14#64, 0#64, 0#64, 4#64] = some (.plicLdPriority ⟨0, .load, 0x4, 4⟩, [])
      ∧ decode [0x1000#64, 16#64, 0#64, 0#64, 4#64] = some (.plicLdPending ⟨0, .load, 0x1000, 4⟩, [])
      ∧ decode [0x2080#64, 18#64, 0#64, 0#64, 4#64] = some (.plicLdEnable ⟨0, .load, 0x2080, 4⟩, [])
      ∧ decode [0x201000#64, 20#64, 0#64, 0#64, 4#64] = some (.plicLdThreshold ⟨0, .load, 0x201000, 4⟩, [])
      ∧ decode [0x201004#64, 22#64, 1#64, 0#64, 4#64] = some (.plicLdClaim ⟨1, .load, 0x201004, 4⟩, [])
      ∧ decode [0x10#64, 24#64, 0#64, 0#64, 4#64] = some (.plicLdReserved ⟨0, .load, 0x10, 4⟩, []) := by decide

theorem test_decode_plic_stores :
    decode [0x4#64, 15#64, 0#64, 1#64, 7#64] = some (.plicStPriority ⟨0, 0x4, [7#8]⟩, [])
      ∧ decode [0x1000#64, 17#64, 0#64, 1#64, 7#64] = some (.plicStPending ⟨0, 0x1000, [7#8]⟩, [])
      ∧ decode [0x2000#64, 19#64, 0#64, 1#64, 7#64] = some (.plicStEnable ⟨0, 0x2000, [7#8]⟩, [])
      ∧ decode [0x200000#64, 21#64, 0#64, 1#64, 7#64] = some (.plicStThreshold ⟨0, 0x200000, [7#8]⟩, [])
      ∧ decode [0x200004#64, 23#64, 0#64, 1#64, 7#64] = some (.plicStComplete ⟨0, 0x200004, [7#8]⟩, [])
      ∧ decode [0x10#64, 25#64, 0#64, 1#64, 7#64] = some (.plicStReserved ⟨0, 0x10, [7#8]⟩, []) := by decide

theorem test_decode_plic_accesses :
    decode [0x6#64, 13#64, 0#64, 0#64, 0#64, 4#64] = some (.plicMisaligned (.load ⟨0, .load, 6, 4⟩), [])
      ∧ decode [0x6#64, 13#64, 1#64, 0#64, 1#64, 9#64] = some (.plicMisaligned (.store ⟨0, 6, [9#8]⟩), [])
      ∧ decode [2#64, 26#64, 1#64] = some (.plicSetPending 2 true, []) := by decide

theorem test_decode_guard_accesses :
    decode [0#64, 27#64, 2#64, 1#64, 0#64, 1#64, 0#64, 4#64]
        = some (.wgUntrusted (.marker 1) (.load ⟨1, .load, 0, 4⟩), [])
      ∧ decode [2#64, 28#64, 3#64, 0#64, 1#64, 0#64, 1#64, 5#64]
        = some (.wgCrossing (.filter 0) (.store ⟨0, 2, [5#8]⟩), [])
      ∧ decode [2#64, 28#64, 4#64, 6#64, 0#64, 0#64, 0#64, 4#64]
        = some (.wgCrossing (.pmp 6) (.load ⟨0, .load, 2, 4⟩), []) := by decide

theorem test_decode_marker :
    decode [0#64, 29#64, 1#64, 0#64, 0#64, 4#64] = some (.wgmLdWid 1 ⟨0, .load, 0, 4⟩, [])
      ∧ decode [0#64, 30#64, 1#64, 0#64, 1#64, 2#64] = some (.wgmStWid 1 ⟨0, 0, [2#8]⟩, [])
      ∧ decode [4#64, 31#64, 1#64, 0#64, 0#64, 4#64] = some (.wgmLdLock 1 ⟨0, .load, 4, 4⟩, [])
      ∧ decode [4#64, 32#64, 1#64, 0#64, 1#64, 1#64] = some (.wgmStLock 1 ⟨0, 4, [1#8]⟩, []) := by decide

theorem test_decode_filter :
    decode [0#64, 33#64, 1#64, 0#64, 0#64, 4#64] = some (.wgfLdWid 1 ⟨0, .load, 0, 4⟩, [])
      ∧ decode [0#64, 34#64, 1#64, 0#64, 1#64, 6#64] = some (.wgfStWid 1 ⟨0, 0, [6#8]⟩, [])
      ∧ decode [0x1000#64, 35#64, 2#64, 1#64, 4#64, 2#64] = some (.wgfGate 2 1 0x1000#64 4 .store, []) := by decide

theorem test_decode_pmp_loads :
    decode [0x18#64, 36#64, 1#64, 0#64, 0#64, 4#64] = some (.wgpLdPerm 1 ⟨0, .load, 0x18, 4⟩, [])
      ∧ decode [0x4#64, 38#64, 1#64, 0#64, 0#64, 8#64] = some (.wgpLdBase 1 ⟨0, .load, 4, 8⟩, [])
      ∧ decode [0xC#64, 40#64, 1#64, 0#64, 0#64, 8#64] = some (.wgpLdCount 1 ⟨0, .load, 0xC, 8⟩, [])
      ∧ decode [0x14#64, 42#64, 1#64, 0#64, 0#64, 4#64] = some (.wgpLdLock 1 ⟨0, .load, 0x14, 4⟩, []) := by decide

theorem test_decode_pmp_stores :
    decode [0x0#64, 37#64, 1#64, 0#64, 1#64, 0x20#64] = some (.wgpStPerm 1 ⟨0, 0, [0x20#8]⟩, [])
      ∧ decode [0x4#64, 39#64, 1#64, 0#64, 1#64, 1#64] = some (.wgpStBase 1 ⟨0, 4, [1#8]⟩, [])
      ∧ decode [0xC#64, 41#64, 1#64, 0#64, 1#64, 2#64] = some (.wgpStCount 1 ⟨0, 0xC, [2#8]⟩, [])
      ∧ decode [0x14#64, 43#64, 1#64, 0#64, 1#64, 1#64] = some (.wgpStLock 1 ⟨0, 0x14, [1#8]⟩, [])
      ∧ decode [0x1500#64, 44#64, 1#64, 2#64, 4#64, 1#64] = some (.wgpGate 1 2 0x1500#64 4 .fetch, []) := by decide

/-- No row has the number 45; a field that is no bool, kind or byte is refused; words must not be missing. -/
theorem test_decode_refuses :
    decode [0#64, 45#64] = none ∧ decode [2#64, 26#64, 2#64] = none ∧ decode [0#64, 0#64, 0#64, 2#64, 4#64] = none
      ∧ decode [0#64, 1#64, 0#64, 1#64, 0x100#64] = none ∧ decode [0#64, 0#64, 0#64, 0#64] = none
      ∧ decode [1#64, 3#64] = none := by decide

theorem test_decode_hart_operations :
    decodeRequest [0x40#64, 45#64, 1#64, 1#64] = some (.atomic .lr 1 0x40#64, [])
      ∧ decodeRequest [0#64, 46#64, 1#64] = some (.fence 1, []) := by decide

/-- The bytes of a word, the least significant first, and a record that is no whole number of words. -/
theorem test_record_bytes :
    bytesOfWords [0x0807060504030201#64] = [1#8, 2#8, 3#8, 4#8, 5#8, 6#8, 7#8, 8#8]
      ∧ decodeRecord [1#8, 2#8, 3#8] = none
      ∧ decodeRecord (bytesOfWords [0x100#64, 12#64, 0#64]) = some (.transaction (.clintTick 0x100#64))
      ∧ decodeRecord (bytesOfWords [0x100#64, 12#64, 1#64]) = none := by decide +kernel

theorem test_decodeTableWord : decodeTableWord 128 (12 * 2 ^ 64 + 0x100) = some (.clintTick 0x100#64) := by decide +kernel

/-! ## Single steps -/

/-- What an outcome leaves of the state, seen through `f`. -/
def seen {α : Type} (f : State → α) : Out → Option α
  | .next t => some (f t)
  | .fault _ => none
  | .refused _ => none

/-- The fault an outcome ends in. -/
def faultOf : Out → Option Fault
  | .next _ => none
  | .fault e => some e
  | .refused _ => none

/-- The refusal an outcome ends in. -/
def refusalOf : Out → Option Refusal
  | .next _ => none
  | .fault _ => none
  | .refused e => some e

/-- What an instruction leaves of the state, seen through `f`. -/
def after {α : Type} (f : State → α) (i : Instr) (s : State) : Option α := seen f (exec i s)

/-- What the transaction returned. -/
def answer : Instr → State → Option Output := after State.out

/-- A running block of configurations K2 and K3 in which every kind of state is in use: MTIP(0), MSIP(0), MEIP(0) and
SEIP(1) are set and right, all three sources are pending, marker 1 and PMP block 0 are locked. -/
def busy : State :=
  { State.reset with
    phase := .running
    mtime := 0x200#64
    mtimecmp := [0x100#64, 0x300#64]
    mip := [⟨true, true, false, true⟩, ⟨false, false, true, false⟩]
    plic :=
      { priority := [1#3, 7#3, 7#3], pending := [0xE#32], claimed := [0#32], enable := [0xE#32, 0#32, 0xC#32, 0x2#32],
        threshold := [0#32, 5#32, 7#32, 0#32], level := [true, true, true] }
    markers := [⟨3#32, 0#32⟩, ⟨2#32, 1#32⟩]
    pmps := [[⟨0x20#32, 0x80001#64, 2#64, 1#32⟩, ⟨0x30#32, 0x80003#64, 1#64, 0#32⟩]]
    mem := [(0x1000, 0xAD#8), (0x80001500, 7#8)] }

/-- `busy` with a source claimed and its line gone down and up again (L21). -/
def claimed : State :=
  { busy with
    plic := { busy.plic with pending := [0xA#32], claimed := [0x4#32], level := [true, false, true] } }

/-- `busy` in real-time mode. -/
def real : State := { busy with cfg := { Config.standard with realTime := true } }

/-- B6, B7: RAM, little-endian. -/
theorem test_busLoad : answer (.busLoad 0 0x80001500#64 2 .load) busy = some (.loaded [7#8, 0#8]) := by decide +kernel

/-- B2: the CLINT is not called; X4: `mtval` is the start address. -/
theorem test_busLoad_end :
    answer (.busLoad 0 0x0200BFFC#64 8 .load) busy = some (.accessFault ⟨0, .load, 0x0200BFFC#64⟩) := by decide +kernel

/-- F4: a store of world 2 inside the filter's range. -/
theorem test_busStore :
    after State.mem (.busStore 1 0x1000#64 [0xFE#8, 0xCA#8]) busy
      = some [(0x1000, 0xFE#8), (0x1001, 0xCA#8), (0x80001500, 7#8)] := by decide +kernel

/-- W8, X2: world 2 has no write bit. -/
theorem test_busStore_denied :
    answer (.busStore 1 0x80001500#64 [7#8]) busy = some (.accessFault ⟨1, .store, 0x80001500#64⟩) := by decide +kernel

/-- B13: adjacent, not overlapping. -/
theorem test_busAddDevice :
    after (fun s => s.bus.map fun e => (e.base, e.size)) (.busAddDevice 0x0200C000#64 (.ram 0x1000) []) State.reset
      = some [(0x1000, 0x2000), (0x02000000, 0xC000), (0x0200C000, 0x1000), (0x0C000000, 0x01000000), (0x10000000, 8),
          (0x10001000, 8), (0x10010000, 4), (0x10020000, 0x30), (0x80000000, 0x4000)] := by decide +kernel

/-- B16: past the end of the address space. -/
theorem test_busAddDevice_overflow :
    faultOf (exec (.busAddDevice 0xFFFFFFFFFFFFF000#64 (.ram 0x2000) []) State.reset)
      = some (.configuration .addressOverflow) := by decide +kernel

/-- S7b: "MS,MS". -/
theorem test_sysConstruct :
    after State.contexts (.sysConstruct Config.standard) State.unbuilt
      = some [⟨0, 0, .m⟩, ⟨1, 0, .s⟩, ⟨2, 1, .m⟩, ⟨3, 1, .s⟩] := by decide +kernel

/-- R282's truncation, by hand: world 2 of a mask of 33 bits. -/
theorem test_initialMask : initialMask ⟨0, 0, 2, 0x100000001⟩ = 5#32 := by decide

/-- L36: a mode twice in one hart. -/
theorem test_sysConstruct_duplicate :
    faultOf (exec (.sysConstruct { Config.standard with hartConfig := ['M', 'M'] }) State.unbuilt)
      = some (.configuration .duplicateMode) := by decide +kernel

/-- CL2: MSIP(0), then MSIP(1). -/
theorem test_clintLdMsip :
    answer (.clintLdMsip ⟨0, .load, 0, 8⟩) busy = some (.loaded [1#8, 0#8, 0#8, 0#8, 0#8, 0#8, 0#8, 0#8]) := by decide +kernel

/-- CL5: an interrupt to hart 1. -/
theorem test_clintStMsip :
    after (fun s => s.mip.map (·.msip)) (.clintStMsip ⟨0, 0, [0#8, 0#8, 0#8, 0#8, 1#8, 0#8, 0#8, 0#8]⟩) busy
      = some [false, true] := by decide +kernel

/-- CL4: a store that covers no byte 0. -/
theorem test_clintStMsip_no_byte0 :
    after (fun s => s.mip.map (·.msip)) (.clintStMsip ⟨0, 1, [0#8]⟩) busy = some [true, false] := by decide +kernel

/-- CL11: across both compare registers. -/
theorem test_clintLdMtimecmp :
    answer (.clintLdMtimecmp ⟨0, .load, 0x4007, 3⟩) busy = some (.loaded [0#8, 0#8, 3#8]) := by decide +kernel

/-- CL12: MTIP against the written value. -/
theorem test_clintStMtimecmp :
    after (fun s => s.mip.map (·.mtip)) (.clintStMtimecmp ⟨0, 0x4009, [0x02#8]⟩) busy = some [true, true] := by decide +kernel

/-- CL18: the high half of `mtime`. -/
theorem test_clintLdMtime :
    answer (.clintLdMtime ⟨0, .load, 0xBFF9, 2⟩) busy = some (.loaded [2#8, 0#8]) := by decide +kernel

/-- CL17: four bytes of `mtime`, and MTIP(0) goes down. -/
theorem test_clintStMtime :
    after (fun s => (s.mtime, s.mip.map (·.mtip))) (.clintStMtime ⟨0, 0xBFF8, [0x50#8, 0#8, 0#8, 0#8]⟩) busy
      = some (0x50#64, [false, false]) := by decide +kernel

/-- CL8: across the end of the family. -/
theorem test_clintLdReserved :
    answer (.clintLdReserved ⟨0, .load, 4, 8⟩) busy = some (.accessFault ⟨0, .load, 0x02000004#64⟩) := by decide +kernel

/-- CL21: a refused access recomputes MTIP. -/
theorem test_clintStReserved :
    after (fun s => s.mip.map (·.mtip)) (.clintStReserved ⟨0, 8, [1#8]⟩)
        { busy with mip := [⟨false, false, false, false⟩, ⟨false, true, false, false⟩] } = some [true, false] := by
  decide +kernel

/-- CL19: time wraps. -/
theorem test_clintTick :
    after (fun s => (s.mtime, s.mip.map (·.mtip))) (.clintTick 0x20#64) { busy with mtime := 0xFFFFFFFFFFFFFFF0#64 }
      = some (0x10#64, [false, false]) := by decide +kernel

/-- L4, L3: a misaligned offset, and a length of 8. -/
theorem test_plicMisaligned :
    answer (.plicMisaligned (.load ⟨0, .load, 6, 4⟩)) busy = some (.accessFault ⟨0, .load, 0x0C000006#64⟩)
      ∧ answer (.plicMisaligned (.load ⟨0, .load, 4, 8⟩)) busy = some (.accessFault ⟨0, .load, 0x0C000004#64⟩) := by
  decide +kernel

/-- L8. -/
theorem test_plicLdPriority :
    answer (.plicLdPriority ⟨0, .load, 8, 4⟩) busy = some (.loaded [7#8, 0#8, 0#8, 0#8]) := by decide +kernel

/-- L6, L7: bits 2 to 0. -/
theorem test_plicStPriority :
    after (fun s => s.plic.priority) (.plicStPriority ⟨0, 4, [0xA#8, 0#8, 0#8, 0#8]⟩) busy = some [2#3, 7#3, 7#3]
      ∧ after (fun s => s.plic.priority) (.plicStPriority ⟨0, 8, [8#8, 0#8, 0#8, 0#8]⟩) busy = some [1#3, 0#3, 7#3] := by
  decide +kernel

/-- L12. -/
theorem test_plicLdPending :
    answer (.plicLdPending ⟨0, .load, 0x1000, 4⟩) busy = some (.loaded [0xE#8, 0#8, 0#8, 0#8]) := by decide +kernel

/-- L10: read-only. -/
theorem test_plicStPending :
    answer (.plicStPending ⟨0, 0x1000, [4#8, 0#8, 0#8, 0#8]⟩) busy = some (.accessFault ⟨0, .store, 0x0C001000#64⟩) := by
  decide +kernel

theorem test_plicLdEnable :
    answer (.plicLdEnable ⟨0, .load, 0x2100, 4⟩) busy = some (.loaded [0xC#8, 0#8, 0#8, 0#8]) := by decide +kernel

/-- L14: context 1 is hart 0's S mode. -/
theorem test_plicStEnable :
    after (fun s => s.mip.map (·.seip)) (.plicStEnable ⟨0, 0x2080, [4#8, 0#8, 0#8, 0#8]⟩) busy = some [true, true] := by
  decide +kernel

/-- L16. -/
theorem test_plicLdThreshold :
    answer (.plicLdThreshold ⟨0, .load, 0x202000, 4⟩) busy = some (.loaded [7#8, 0#8, 0#8, 0#8]) := by decide +kernel

/-- L16: the threshold saturates, and MEIP(0) goes down. -/
theorem test_plicStThreshold :
    after (fun s => (s.plic.threshold, s.mip.map (·.meip)))
        (.plicStThreshold ⟨0, 0x200000, [0xFF#8, 0xFF#8, 0xFF#8, 0xFF#8]⟩) busy
      = some ([7#32, 5#32, 7#32, 0#32], [false, false]) := by decide +kernel

/-- S3: of two sources of priority 7 the lower id. -/
theorem test_plicLdClaim :
    after (fun s => (s.out, s.plic.pending, s.plic.claimed)) (.plicLdClaim ⟨0, .load, 0x200004, 4⟩) busy
      = some (.loaded [2#8, 0#8, 0#8, 0#8], [0xA#32], [0x4#32]) := by decide +kernel

/-- L20: nothing enabled in context 1. -/
theorem test_plicLdClaim_none :
    after (fun s => (s.out, s.plic)) (.plicLdClaim ⟨0, .load, 0x201004, 4⟩) busy
      = some (.loaded [0#8, 0#8, 0#8, 0#8], busy.plic) := by decide +kernel

/-- L23, L22: the claimed id; an id above S. -/
theorem test_plicStComplete :
    after (fun s => s.plic.claimed) (.plicStComplete ⟨0, 0x203004, [2#8, 0#8, 0#8, 0#8]⟩) claimed = some [0#32]
      ∧ after (fun s => s.plic.claimed) (.plicStComplete ⟨0, 0x203004, [9#8, 0#8, 0#8, 0#8]⟩) claimed = some [4#32] := by
  decide +kernel

/-- L1, L2: id 0's priority slot, and the slot above S. -/
theorem test_plicLdReserved :
    answer (.plicLdReserved ⟨0, .load, 0, 4⟩) busy = some (.accessFault ⟨0, .load, 0x0C000000#64⟩)
      ∧ answer (.plicLdReserved ⟨0, .load, 0x10, 4⟩) busy = some (.accessFault ⟨0, .load, 0x0C000010#64⟩) := by
  decide +kernel

/-- L18: the context word at offset 8. -/
theorem test_plicStReserved :
    answer (.plicStReserved ⟨0, 0x200008, [0#8, 0#8, 0#8, 0#8]⟩) busy = some (.accessFault ⟨0, .store, 0x0C200008#64⟩) := by
  decide +kernel

/-- L21, L27: a rising edge on a claimed source, kept or dropped. -/
theorem test_plicSetPending :
    after (fun s => s.plic.pending) (.plicSetPending 2 true) claimed = some [0xE#32]
      ∧ after (fun s => s.plic.pending) (.plicSetPending 2 true)
          { claimed with cfg := { Config.standard with edgeWhileClaimed := .drop } } = some [0xA#32] := by decide +kernel

/-- L33, L28: id 0 is ignored; a repeated level is no edge. -/
theorem test_plicSetPending_ignored :
    after (fun s => s.plic) (.plicSetPending 0 true) busy = some busy.plic
      ∧ after (fun s => s.plic) (.plicSetPending 3 true) busy = some busy.plic := by decide +kernel

/-- M1: untrusted, even for its own marker. -/
theorem test_wgUntrusted :
    answer (.wgUntrusted (.marker 1) (.load ⟨1, .load, 0, 4⟩)) busy = some (.accessFault ⟨1, .load, 0x10001000#64⟩) := by
  decide +kernel

/-- W6: across perm and base_page. -/
theorem test_wgCrossing :
    answer (.wgCrossing (.pmp 0) (.load ⟨0, .load, 2, 4⟩)) busy = some (.accessFault ⟨0, .load, 0x10020002#64⟩) := by
  decide +kernel

/-- M2. -/
theorem test_wgmLdWid :
    answer (.wgmLdWid 1 ⟨0, .load, 0, 4⟩) busy = some (.loaded [2#8, 0#8, 0#8, 0#8]) := by decide +kernel

/-- M9, M5: a locked marker; a world above the trusted one. -/
theorem test_wgmStWid_refused :
    answer (.wgmStWid 1 ⟨0, 0, [1#8, 0#8, 0#8, 0#8]⟩) busy = some (.accessFault ⟨0, .store, 0x10001000#64⟩)
      ∧ answer (.wgmStWid 0 ⟨0, 0, [4#8, 0#8, 0#8, 0#8]⟩) busy = some (.accessFault ⟨0, .store, 0x10000000#64⟩) := by
  decide +kernel

/-- M14: self-demotion. -/
theorem test_wgmStWid :
    after State.markers (.wgmStWid 0 ⟨0, 0, [2#8, 0#8, 0#8, 0#8]⟩) busy = some [⟨2#32, 0#32⟩, ⟨2#32, 1#32⟩] := by
  decide +kernel

/-- M11. -/
theorem test_wgmLdLock :
    answer (.wgmLdLock 1 ⟨0, .load, 4, 4⟩) busy = some (.loaded [1#8, 0#8, 0#8, 0#8]) := by decide +kernel

/-- M12: one byte locks. -/
theorem test_wgmStLock :
    after State.markers (.wgmStLock 0 ⟨0, 6, [0x80#8]⟩) busy = some [⟨3#32, 0x800000#32⟩, ⟨2#32, 1#32⟩] := by
  decide +kernel

/-- F1. -/
theorem test_wgfLdWid :
    answer (.wgfLdWid 0 ⟨0, .load, 0, 4⟩) busy = some (.loaded [4#8, 0#8, 0#8, 0#8]) := by decide +kernel

/-- F10. -/
theorem test_wgfStWid :
    after State.filterMask (.wgfStWid 0 ⟨0, 0, [6#8, 0#8, 0#8, 0#8]⟩) busy = some [6#32] := by decide +kernel

/-- F5, F6: the last word of the range; past the range, although trusted. -/
theorem test_wgfGate :
    answer (.wgfGate 0 1 0x1FFC#64 4 .load) busy = some (.gate true)
      ∧ answer (.wgfGate 0 0 0x1FFE#64 4 .load) busy = some (.gate false) := by decide +kernel

/-- W15: a locked block is read. -/
theorem test_wgpLdPerm :
    answer (.wgpLdPerm 0 ⟨0, .load, 0, 4⟩) busy = some (.loaded [0x20#8, 0#8, 0#8, 0#8]) := by decide +kernel

/-- W14, W18: block 0 is locked, block 1 is not. -/
theorem test_wgpStPerm :
    answer (.wgpStPerm 0 ⟨0, 0, [0x30#8, 0#8, 0#8, 0#8]⟩) busy = some (.accessFault ⟨0, .store, 0x10020000#64⟩)
      ∧ after (fun s => (s.block 0 1).perm) (.wgpStPerm 0 ⟨0, 0x18, [3#8, 0#8, 0#8, 0#8]⟩) busy = some 3#32 := by
  decide +kernel

/-- W5: the high half of `base_page`. -/
theorem test_wgpLdBase :
    answer (.wgpLdBase 0 ⟨0, .load, 6, 2⟩) busy = some (.loaded [8#8, 0#8]) := by decide +kernel

theorem test_wgpStBase :
    after (fun s => (s.block 0 1).basePage) (.wgpStBase 0 ⟨0, 0x20, [1#8]⟩) busy = some 0x100080003#64 := by
  decide +kernel

/-- W7. -/
theorem test_wgpLdCount :
    answer (.wgpLdCount 0 ⟨0, .load, 0xC, 8⟩) busy = some (.loaded [2#8, 0#8, 0#8, 0#8, 0#8, 0#8, 0#8, 0#8]) := by
  decide +kernel

theorem test_wgpStCount :
    after (fun s => (s.block 0 1).pageCount) (.wgpStCount 0 ⟨0, 0x24, [2#8, 0#8, 0#8, 0#8, 0#8, 0#8, 0#8, 0#8]⟩) busy
      = some 2#64 := by decide +kernel

theorem test_wgpLdLock :
    answer (.wgpLdLock 0 ⟨0, .load, 0x14, 4⟩) busy = some (.loaded [1#8, 0#8, 0#8, 0#8]) := by decide +kernel

/-- W13. -/
theorem test_wgpStLock :
    after (fun s => (s.block 0 1).lock) (.wgpStLock 0 ⟨0, 0x2C, [1#8, 0#8, 0#8, 0#8]⟩) busy = some 1#32 := by
  decide +kernel

/-- W8, W9: world 2 reads and fetches block 0 and does not write it. -/
theorem test_wgpGate :
    answer (.wgpGate 0 1 0x80001500#64 4 .fetch) busy = some (.gate true)
      ∧ answer (.wgpGate 0 1 0x80001500#64 4 .store) busy = some (.gate false) := by decide +kernel

/-- W17: a request that straddles two blocks that both grant it. -/
theorem test_wgpGate_straddles : answer (.wgpGate 0 1 0x80002FFC#64 8 .load) busy = some (.gate false) := by
  decide +kernel

/-- A row's word at the head of the queue runs as the first instruction after reset. -/
theorem test_step_withFetchWord :
    seen (fun t => (t.mtime, t.phase, t.queue)) (step (State.reset.withFetchWord 128 (12 * 2 ^ 64 + 0x100)))
      = some (0x100#64, .running, []) := by decide +kernel

/-! ## A state and operands that meet the hypotheses of each statement; for a statement with clauses, of each clause, at
a boundary of its range -/

theorem busy_inv : busy.Inv := by decide +kernel

theorem claimed_inv : claimed.Inv := by decide +kernel

theorem real_inv : real.Inv := by decide +kernel

theorem reset_inv : State.reset.Inv := by decide +kernel

theorem busy_mtipRight : busy.MtipRight := by decide +kernel

theorem busy_trusted : InTrustedWorld busy 0 := ⟨⟨3#32, 0#32⟩, rfl, rfl⟩

theorem busy_untrusted : ¬InTrustedWorld busy 1 := by
  rintro ⟨x, hx, hw⟩
  cases hx
  exact absurd hw (by decide)

/-- In `busy`, context 0 would claim IRQ 2: greatest priority, lower id than 3. -/
theorem busy_best : IsBest busy 0 2 := by
  refine .inr ⟨by unfold Eligible; decide +kernel, fun j hj => ?_⟩
  have h1 := hj.1
  have h2 : j ≤ 3 := hj.2.1
  interval_cases j <;> decide +kernel

theorem witness_DecodeInvertsEncode :
    (Instr.busStore (2 ^ 64 - 1) 0xFFFFFFFFFFFFFFFF#64 [0xFF#8]).wf = true ∧ (Instr.sysConstruct Config.standard).wf = true := by
  decide

theorem witness_RecordsRoundTrip :
    (Request.transaction (.clintTick 1#64)).wf = true ∧ (Request.fence (2 ^ 64 - 1)).wf = true := by decide

theorem witness_ClintDecode : 4095 ≤ 4095 ∧ clintFamily 4095 16376 4 = some .msip
    ∧ clintFamily 4095 (0x4000 + 32752) 8 = some .mtimecmp ∧ clintFamily 4095 0xBFFF 1 = some .mtime
    ∧ clintFamily 4095 16377 4 = none := by decide

theorem witness_PlicDecode : plicLayoutOk busy.cfg busy.contexts.length = true ∧ 0x0C % 4 = 0
    ∧ busy.plicSelects 0xC 4 = some (.priority 3) ∧ busy.plicSelects 0x1000 4 = some (.pending 0)
    ∧ busy.plicSelects 0x2180 4 = some (.enable 3 0) ∧ busy.plicSelects 0x203000 4 = some (.threshold 3)
    ∧ busy.plicSelects 0x203004 4 = some (.claim 3) ∧ busy.plicSelects 0x10 4 = some .reserved
    ∧ busy.plicSelects 0x10 8 = none := by decide +kernel

theorem witness_GuardDecode : 1 ≤ 4 ∧ markerRegister 0 4 = some .wid ∧ markerRegister 7 1 = some .lock
    ∧ filterRegister 3 1 = true ∧ pmpField 0x18 4 = some (1, .perm) ∧ pmpField 0xB 1 = some (0, .basePage)
    ∧ pmpField 0xC 8 = some (0, .pageCount) ∧ pmpField 0x2F 1 = some (1, .lock) := by decide

theorem witness_RowsDecodeAtThePort :
    portAccess (.clintLdMsip ⟨0, .load, 0xBFF8, 8⟩) ≠ none
      ∧ portAccess (.clintLdMsip ⟨0, .load, 0xBFF8, 8⟩) = portAccess (.clintLdMtime ⟨0, .load, 0xBFF8, 8⟩) := by decide

theorem witness_ClintLoadMsip : busy.Inv ∧ 1 ≤ 8 ∧ 0 + 8 ≤ 4 * busy.cfg.nHarts := ⟨busy_inv, by decide, by decide⟩

theorem witness_ClintStoreMsip : busy.Inv ∧ 1 ≤ [1#8].length ∧ 7 + [1#8].length ≤ 4 * busy.cfg.nHarts :=
  ⟨busy_inv, by decide, by decide⟩

theorem witness_ClintTimeLoads :
    busy.Inv ∧ (0x4000 ≤ 0x400F ∧ 0x400F + 1 ≤ 0x4000 + 8 * busy.cfg.nHarts) ∧ 0xBFF8 ≤ 0xBFF8 ∧ 0xBFF8 + 8 ≤ 0xC000 :=
  ⟨busy_inv, by decide, by decide, by decide⟩

theorem witness_ClintTimeStores :
    real.Inv ∧ (0x4000 ≤ 0x4000 ∧ 0x4000 + [1#8].length ≤ 0x4000 + 8 * real.cfg.nHarts)
      ∧ 0xBFF8 ≤ 0xBFFF ∧ 0xBFFF + [1#8].length ≤ 0xC000 :=
  ⟨real_inv, by decide, by decide, by decide⟩

/-- The gaps after MSIP, after the compare registers, and across the start of `mtime`. -/
theorem witness_ClintReservedRefuses :
    busy.Inv ∧ ∀ a ∈ [(8, 4), (0x4010, 1), (0xBFF4, 8)],
      1 ≤ a.2 ∧ a.1 + a.2 ≤ 0xC000 ∧ ¬a.1 + a.2 ≤ 4 * busy.cfg.nHarts
        ∧ ¬(0x4000 ≤ a.1 ∧ a.1 + a.2 ≤ 0x4000 + 8 * busy.cfg.nHarts) ∧ ¬0xBFF8 ≤ a.1 :=
  ⟨busy_inv, by decide⟩

theorem witness_ClintTick : busy.Inv ∧ real.Inv := ⟨busy_inv, real_inv⟩

theorem witness_RealTimeMonotone : ∃ t u v : State, real.Inv ∧ real.cfg.realTime = true
    ∧ exec (.clintLdMtime ⟨0, .load, 0xBFF8, 8⟩) real = .next t
    ∧ exec (.clintStMtime ⟨0, 0xBFF8, [0xFF#8]⟩) t = .next u
    ∧ exec (.clintLdMtime ⟨0, .load, 0xBFF8, 8⟩) u = .next v :=
  ⟨_, _, _, real_inv, rfl, rfl, rfl, rfl⟩

theorem witness_MtipStaysRight : busy.Inv ∧ busy.MtipRight ∧ Completes (step { busy with queue := [encodeRecord (.fence 0)] }) :=
  ⟨busy_inv, busy_mtipRight, _, rfl⟩

/-- Each bit changes: MSIP by a store, MTIP by a tick, MEIP by a claim through context 0. -/
theorem witness_MipBitsHaveOneWriter :
    busy.Inv
      ∧ after (fun t => ((t.mipOf 0).msip, (busy.mipOf 0).msip)) (.clintStMsip ⟨0, 0, [0#8]⟩) busy = some (false, true)
      ∧ after (fun t => ((t.mipOf 1).mtip, (busy.mipOf 1).mtip)) (.clintTick 0x100#64) busy = some (true, false)
      ∧ after (fun t => ((t.mipOf 0).meip, (busy.mipOf 0).meip)) (.plicStEnable ⟨0, 0x2000, [0#8, 0#8, 0#8, 0#8]⟩) busy
          = some (false, true)
      ∧ after (fun t => ((t.mipOf 1).seip, (busy.mipOf 1).seip)) (.plicStThreshold ⟨0, 0x203000, [1#8, 0#8, 0#8, 0#8]⟩) busy
          = some (false, true) :=
  ⟨busy_inv, by decide +kernel, by decide +kernel, by decide +kernel, by decide +kernel⟩

/-- A load on the bus reaches the CLINT, and a row of the CLINT its port. -/
theorem witness_Reaches :
    Reaches busy (.busLoad 1 0x0200BFF8#64 8 .load) .clint (.load ⟨1, .load, 0xBFF8, 8⟩)
      ∧ Reaches busy (.clintStMsip ⟨0, 0, [0#8]⟩) .clint (.store ⟨0, 0, [0#8]⟩) :=
  ⟨.inr (.inl ⟨1, _, _, _, ⟨0x02000000, 0xC000, .clint, []⟩, by decide, rfl, rfl, by decide, by decide, rfl⟩), .inl rfl⟩

theorem witness_InterProcessorInterrupt :
    busy.Inv ∧ (⟨0x02000000, 0xC000, .clint, []⟩ : BusEntry) ∈ busy.bus ∧ 1 < busy.cfg.nHarts :=
  ⟨busy_inv, by decide, by decide⟩

theorem witness_UpdateDrivesTheLines : claimed.Inv := claimed_inv

theorem witness_PlicRegisterLoads :
    busy.Inv ∧ (1 ≤ 3 ∧ 3 ≤ busy.cfg.numSources ∧ 0xC = busy.cfg.priorityBase + 4 * 3)
      ∧ (0 < busy.cfg.words ∧ 0x1000 = busy.cfg.pendingBase + 4 * 0)
      ∧ (3 < busy.contexts.length ∧ 0x2180 = busy.cfg.enableBase + 3 * busy.cfg.enableStride + 4 * 0)
      ∧ 0x203000 = busy.cfg.contextBase + 3 * busy.cfg.contextStride :=
  ⟨busy_inv, by decide, by decide, by decide, by decide⟩

theorem witness_PlicRegisterStores :
    claimed.Inv ∧ [1#8, 2#8, 3#8, 4#8].length = 4
      ∧ (1 ≤ 1 ∧ 1 ≤ claimed.cfg.numSources ∧ 4 = claimed.cfg.priorityBase + 4 * 1)
      ∧ (0 < claimed.cfg.words ∧ 0 < claimed.contexts.length
          ∧ 0x2000 = claimed.cfg.enableBase + 0 * claimed.cfg.enableStride + 4 * 0)
      ∧ 0x200000 = claimed.cfg.contextBase + 0 * claimed.cfg.contextStride :=
  ⟨claimed_inv, by decide, by decide, by decide, by decide⟩

theorem witness_PlicClaim :
    busy.Inv ∧ 3 < busy.contexts.length ∧ 0x203004 = busy.cfg.contextBase + 3 * busy.cfg.contextStride + 4 :=
  ⟨busy_inv, by decide, by decide⟩

theorem witness_PlicComplete :
    claimed.Inv ∧ [2#8, 0#8, 0#8, 0#8].length = 4 ∧ 0 < claimed.contexts.length
      ∧ 0x200004 = claimed.cfg.contextBase + 0 * claimed.cfg.contextStride + 4 :=
  ⟨claimed_inv, by decide, by decide, by decide⟩

/-- Ids 1 and S, and the ids beside them. -/
theorem witness_PlicSetPending :
    claimed.Inv ∧ (1 ≤ 1 ∧ 3 ≤ claimed.cfg.numSources) ∧ ¬(1 ≤ 0 ∧ 0 ≤ claimed.cfg.numSources)
      ∧ ¬(1 ≤ 4 ∧ 4 ≤ claimed.cfg.numSources) :=
  ⟨claimed_inv, by decide, by decide, by decide⟩

theorem witness_PlicRefusals :
    ¬(accessLen (.load ⟨0, .load, 6, 4⟩) = 4 ∧ Access.off (.load ⟨0, .load, 6, 4⟩) % 4 = 0)
      ∧ busy.plicSelects 0x1000 [0#8, 0#8, 0#8, 0#8].length = some (.pending 0)
      ∧ busy.plicSelects 0x1004 4 = some .reserved
      ∧ busy.plicSelects 0 [0#8, 0#8, 0#8, 0#8].length = some .reserved := by decide +kernel

theorem witness_PendingClearedOnlyByClaim :
    busy.Inv ∧ bitAt busy.plic.pending 2 = true
      ∧ after (fun t => bitAt t.plic.pending 2) (.plicLdClaim ⟨0, .load, 0x200004, 4⟩) busy = some false :=
  ⟨busy_inv, by decide, by decide +kernel⟩

/-- After the claim of IRQ 2, its line goes down and up, and another id is completed. -/
theorem witness_OneClaimPerAssertion : ∃ t u : State,
    busy.Inv ∧ 0 < busy.contexts.length ∧ 0x200004 = busy.cfg.contextBase + 0 * busy.cfg.contextStride + 4
      ∧ IsBest busy 0 2 ∧ exec (.plicLdClaim ⟨0, .load, 0x200004, 4⟩) busy = .next t
      ∧ (∀ x ∈ [Instr.plicSetPending 2 false, .plicSetPending 2 true, .plicStComplete ⟨0, 0x200004, [3#8, 0#8, 0#8, 0#8]⟩],
          ¬StoresWord x 2)
      ∧ execAll [.plicSetPending 2 false, .plicSetPending 2 true, .plicStComplete ⟨0, 0x200004, [3#8, 0#8, 0#8, 0#8]⟩] t
          = .next u := by
  refine ⟨_, _, busy_inv, by decide, by decide, busy_best, rfl, fun x hx => ?_, rfl⟩
  rintro ⟨b, hb, -, hv⟩
  simp only [List.mem_cons, List.not_mem_nil, or_false] at hx
  rcases hx with rfl | rfl | rfl <;> cases hb
  exact absurd hv (by decide)

theorem witness_UntrustedIsRefused :
    portAccess (.wgpStPerm 0 ⟨1, 0, [0x30#8]⟩) = some (guardDevice (.pmp 0), .store ⟨1, 0, [0x30#8]⟩)
      ∧ ¬InTrustedWorld busy (accessHart (.store ⟨1, 0, [0x30#8]⟩)) ∧ ¬InTrustedWorld busy 2 :=
  ⟨rfl, busy_untrusted, by rintro ⟨x, hx, -⟩; cases hx⟩

theorem witness_CrossingIsRefused :
    crosses (.marker 0) (Access.off (.load ⟨0, .load, 3, 2⟩)) (accessLen (.load ⟨0, .load, 3, 2⟩)) = true
      ∧ crosses (.pmp 0) 0x17 2 = true := by decide

theorem witness_MarkerLoads :
    busy.Inv ∧ 1 < busy.cfg.nHarts ∧ InTrustedWorld busy 0 ∧ (1 ≤ 4 ∧ 0 + 4 ≤ 4) ∧ 4 ≤ 7 ∧ 7 + 1 ≤ 8 :=
  ⟨busy_inv, by decide, busy_trusted, by decide, by decide, by decide⟩

/-- A store of 2 in byte 0 of marker 0's `wid` of 3. -/
theorem witness_MarkerStoreWid :
    busy.Inv ∧ 0 < busy.cfg.nHarts ∧ InTrustedWorld busy 0 ∧ 1 ≤ [2#8].length ∧ 0 + [2#8].length ≤ 4
      ∧ IsPatched (busy.marker 0).wid 0 [2#8] 2#32 :=
  ⟨busy_inv, by decide, busy_trusted, by decide, by decide, by unfold IsPatched; decide +kernel⟩

/-- A store of 0x80 in the last byte of marker 0's `lock` of 0. -/
theorem witness_MarkerStoreLock :
    busy.Inv ∧ 0 < busy.cfg.nHarts ∧ InTrustedWorld busy 0 ∧ 1 ≤ [0x80#8].length ∧ 4 ≤ 7 ∧ 7 + [0x80#8].length ≤ 8
      ∧ IsPatched (busy.marker 0).lock (7 - 4) [0x80#8] 0x80000000#32 :=
  ⟨busy_inv, by decide, busy_trusted, by decide, by decide, by decide, by unfold IsPatched; decide +kernel⟩

theorem witness_FilterRegister :
    busy.Inv ∧ 0 < busy.cfg.filters.length ∧ InTrustedWorld busy 0 ∧ 1 ≤ [0xFF#8].length ∧ 3 + [0xFF#8].length ≤ 4
      ∧ IsPatched (busy.mask 0) 3 [0xFF#8] 0xFF000004#32 :=
  ⟨busy_inv, by decide, busy_trusted, by decide, by decide, by unfold IsPatched; decide +kernel⟩

theorem witness_FilterGate :
    busy.cfg.filters[0]? = some ⟨0x1000, 0x1000, 2, 0⟩ ∧ busy.markers[1]? = some ⟨2#32, 1#32⟩ := ⟨rfl, rfl⟩

theorem witness_PmpLoads :
    busy.Inv ∧ busy.pmps[0]? = some (busy.pmps.getD 0 [])
      ∧ (busy.pmps.getD 0 [])[1]? = some ⟨0x30#32, 0x80003#64, 1#64, 0#32⟩ ∧ InTrustedWorld busy 0
      ∧ (0x18 = 0x18 * 1 + 0 ∧ 0 + 4 ≤ 4) ∧ (0x23 = 0x18 * 1 + 0x04 + 7 ∧ 7 + 1 ≤ 8)
      ∧ (0x24 = 0x18 * 1 + 0x0C + 0 ∧ 0 + 8 ≤ 8) ∧ 0x2F = 0x18 * 1 + 0x14 + 3 ∧ 3 + 1 ≤ 4 :=
  ⟨busy_inv, rfl, rfl, busy_trusted, by decide, by decide, by decide, by decide, by decide⟩

theorem witness_PmpStores :
    busy.Inv ∧ busy.pmps[0]? = some (busy.pmps.getD 0 [])
      ∧ (busy.pmps.getD 0 [])[1]? = some ⟨0x30#32, 0x80003#64, 1#64, 0#32⟩ ∧ InTrustedWorld busy 0 ∧ 1 ≤ [1#8].length
      ∧ (0x18 = 0x18 * 1 + 0 ∧ IsPatched 0x30#32 0 [1#8] 1#32)
      ∧ (0x23 = 0x18 * 1 + 0x04 + 7 ∧ IsPatched 0x80003#64 7 [1#8] 0x0100000000080003#64)
      ∧ (0x24 = 0x18 * 1 + 0x0C + 0 ∧ IsPatched 1#64 0 [1#8] 1#64)
      ∧ 0x2F = 0x18 * 1 + 0x14 + 3 ∧ IsPatched 0#32 3 [1#8] 0x01000000#32 := by
  refine ⟨busy_inv, rfl, rfl, busy_trusted, by decide, ⟨by decide, ?_⟩, ⟨by decide, ?_⟩, ⟨by decide, ?_⟩, by decide, ?_⟩ <;>
    unfold IsPatched <;> decide +kernel

theorem witness_PmpGate :
    busy.pmps[0]? = some (busy.pmps.getD 0 []) ∧ busy.markers[1]? = some ⟨2#32, 1#32⟩ := ⟨rfl, rfl⟩

/-- `busy` has a locked marker and a locked block, and a store to the marker at the head of the queue. -/
theorem witness_LocksAreForever :
    let s := { busy with queue := [encodeRecord (.transaction (.busStore 0 0x10001000#64 [1#8, 0#8, 0#8, 0#8]))] }
    s.Inv ∧ Completes (step s) ∧ (s.marker 1).lock ≠ 0#32 ∧ (s.block 0 0).lock ≠ 0#32 :=
  ⟨busy_inv, ⟨_, rfl⟩, by decide, by decide⟩

theorem witness_OnlyTheTrustedWorldWritesGuards :
    busy.Inv
      ∧ after (fun t => decide (t.markers ≠ busy.markers)) (.wgmStWid 0 ⟨0, 0, [2#8]⟩) busy = some true
      ∧ after (fun t => decide (t.filterMask ≠ busy.filterMask)) (.wgfStWid 0 ⟨0, 0, [1#8]⟩) busy = some true
      ∧ after (fun t => decide (t.pmps ≠ busy.pmps)) (.wgpStPerm 0 ⟨0, 0x18, [1#8]⟩) busy = some true :=
  ⟨busy_inv, by decide +kernel, by decide +kernel, by decide +kernel⟩

theorem witness_FindDevice :
    findDevice busy.bus 0x2FFF = some ⟨0x1000, 0x2000, .ram 0x2000, [.filter 0]⟩ ∧ findDevice busy.bus 0xFFF = none := by
  decide +kernel

/-- Hart 1, world 2, fetches the last word that PMP block 0 covers. -/
theorem witness_BusLoadsRam :
    busy.Inv ∧ (⟨0x80000000, 0x4000, .ram 0x4000, [.pmp 0]⟩ : BusEntry) ∈ busy.bus ∧ 1 ≤ 4
      ∧ 0x80000000 ≤ (0x80002FFC#64).toNat ∧ (0x80002FFC#64).toNat + 4 ≤ 0x80000000 + 0x4000
      ∧ ∀ g ∈ [Guard.pmp 0], gate busy g 1 (0x80002FFC#64).toNat 4 (accessKind .fetch) = true :=
  ⟨busy_inv, by decide, by decide, by decide, by decide, by decide +kernel⟩

theorem witness_BusStoresRam :
    busy.Inv ∧ (⟨0x1000, 0x2000, .ram 0x2000, [.filter 0]⟩ : BusEntry) ∈ busy.bus ∧ 1 ≤ [1#8].length
      ∧ 0x1000 ≤ (0x1FFF#64).toNat ∧ (0x1FFF#64).toNat + [1#8].length ≤ 0x1000 + 0x2000
      ∧ ∀ g ∈ [Guard.filter 0], gate busy g 1 (0x1FFF#64).toNat [1#8].length .store = true :=
  ⟨busy_inv, by decide, by decide, by decide, by decide, by decide +kernel⟩

/-- An access past the CLINT's end, one past the map's last entry, one that PMP block 0 does not let world 2 write. -/
theorem witness_BusRefusals :
    busy.Inv
      ∧ (∀ e ∈ busy.bus, ¬(e.base ≤ (0x0200BFFC#64).toNat ∧ (0x0200BFFC#64).toNat + 8 ≤ e.base + e.size))
      ∧ (∀ e ∈ busy.bus, ¬(e.base ≤ (0xFFFFFFFFFFFFFFFF#64).toNat ∧ (0xFFFFFFFFFFFFFFFF#64).toNat + 1 ≤ e.base + e.size))
      ∧ ∃ e ∈ busy.bus, e.base ≤ (0x80001500#64).toNat ∧ (0x80001500#64).toNat + 4 ≤ e.base + e.size
          ∧ ∃ g ∈ e.guards, gate busy g 1 (0x80001500#64).toNat 4 .store = false :=
  ⟨busy_inv, by decide, by decide, by decide +kernel⟩

theorem witness_BusReachesThePort :
    busy.Inv
      ∧ busy.bus.find? (fun x => decide (x.device = .clint)) = some ⟨0x02000000, 0xC000, .clint, []⟩
      ∧ 0x02000000 ≤ (0x0200BFF8#64).toNat ∧ (0x0200BFF8#64).toNat + 8 ≤ 0x02000000 + 0xC000
      ∧ portAccess (.clintLdMtime ⟨1, .load, 0xBFF8, 8⟩)
          = some (.clint, .load ⟨1, .load, (0x0200BFF8#64).toNat - 0x02000000, 8⟩)
      ∧ portAccess (.clintStMtime ⟨1, 0xBFF8, [1#8]⟩)
          = some (.clint, .store ⟨1, (0x0200BFF8#64).toNat - 0x02000000, [1#8]⟩) :=
  ⟨busy_inv, by decide, by decide, by decide, by decide, by decide⟩

theorem witness_RefusedAccessIsPrecise :
    after State.out (.clintLdReserved ⟨0, .load, 8, 4⟩) busy = some (.accessFault ⟨0, .load, 0x02000008#64⟩) := by
  decide +kernel

theorem witness_MemoryFrame :
    busy.Inv ∧ Completes (exec (.busStore 0 0x80000000#64 [1#8, 2#8]) busy)
      ∧ ¬((0x80000000#64).toNat ≤ 0x80000002 ∧ 0x80000002 < (0x80000000#64).toNat + [1#8, 2#8].length) :=
  ⟨busy_inv, ⟨_, rfl⟩, by decide⟩

/-- Accepted: "MS,,U"; refused: a repeated mode, an unknown one. -/
theorem witness_HartConfigParsing :
    (∀ p ∈ hartChars 0 ['M', 'S', ',', ',', 'U'], p.2 ∈ ['M', 'S', 'U', 'H']) ∧ (hartChars 0 ['M', 'S', ',', ',', 'U']).Nodup
      ∧ ([⟨0, 0, .m⟩, ⟨1, 0, .s⟩, ⟨2, 2, .u⟩] : List Context).map (fun c => (c.hartid, some c.mode))
          = (hartChars 0 ['M', 'S', ',', ',', 'U']).map (fun p => (p.1, modeOf p.2))
      ∧ ¬(hartChars 0 ['M', 'M']).Nodup ∧ ¬∀ p ∈ hartChars 0 ['M', 'X'], p.2 ∈ ['M', 'S', 'U', 'H'] := by decide

theorem witness_ConstructGivesTheResetState :
    State.unbuilt.phase = .unbuilt
      ∧ parseHartConfig Config.standard.hartConfig = .ok [⟨0, 0, .m⟩, ⟨1, 0, .s⟩, ⟨2, 1, .m⟩, ⟨3, 1, .s⟩]
      ∧ parameterError Config.standard 4 = none ∧ ValidMap Config.standard :=
  ⟨rfl, rfl, by decide, by unfold ValidMap; decide +kernel⟩

/-- Each of the errors, at the first value that is one. -/
theorem witness_ConstructRejects :
    State.unbuilt.phase = .unbuilt ∧ [0#64].length ≠ 2 ∧ 2 ≤ ['M', ',', 'M', ','].count ',' ∧ ¬(1 ≤ 4096 ∧ 4096 ≤ 4095) ∧ 2 ^ 32 ≤ 2 ^ 32
      ∧ (∃ p ∈ hartChars 0 ['X'], p.2 ∉ ['M', 'S', 'U', 'H']) ∧ ¬(hartChars 0 ['M', 'M']).Nodup
      ∧ (∃ p ∈ hartChars 0 ['M', ',', 'M', ',', 'M'], 2 ≤ p.1)
      ∧ ¬plicLayoutOk { Config.standard with contextBase := 0x21FC } 4 = true ∧ ¬(1 ≤ 16 ∧ 16 ≤ 15)
      ∧ (∃ w ∈ [3, 4], Config.standard.widTrusted < w)
      ∧ ¬ValidMap { Config.standard with deviceMap := [⟨0#64, .ram 0, []⟩] }
      ∧ ¬ValidMap { Config.standard with deviceMap := [⟨0#64, .ram 2, []⟩, ⟨1#64, .ram 1, []⟩] } := by
  unfold ValidMap; decide +kernel

/-- A device beside the CLINT; one of no byte, one past the end, one over the CLINT. -/
theorem witness_AddDevice :
    State.reset.Inv ∧ State.reset.phase = .configuring ∧ deviceSize State.reset.cfg (.ram 0x1000) = some 0x1000
      ∧ [Guard.pmp 0].all (guardExists State.reset.cfg) = true
      ∧ (0x1000 ≠ 0 ∧ (0x0200C000#64).toNat + 0x1000 ≤ 2 ^ 64
          ∧ ∀ e ∈ State.reset.bus, e.base + e.size ≤ (0x0200C000#64).toNat ∨ (0x0200C000#64).toNat + 0x1000 ≤ e.base)
      ∧ deviceSize State.reset.cfg (.ram 0) = some 0 ∧ 2 ^ 64 < (0xFFFFFFFFFFFFF001#64).toNat + 0x1000
      ∧ ∃ e ∈ State.reset.bus, e.base < (0x0200BFFF#64).toNat + 0x1000 ∧ (0x0200BFFF#64).toNat < e.base + e.size :=
  ⟨reset_inv, rfl, rfl, by decide, by decide +kernel, rfl, by decide, by decide +kernel⟩

theorem witness_ConstructionIsOnce : State.reset.phase ≠ .unbuilt ∧ busy.phase ≠ .unbuilt ∧ busy.phase = .running := by
  decide

/-- A tick and a construction at the head of the queue, an empty queue, bytes that are no record. -/
theorem witness_StepRunsTheDecodedRecord :
    decodeRecord (encodeRecord (.transaction (.clintTick 1#64))) = some (.transaction (.clintTick 1#64))
      ∧ isConfiguration (.clintTick 1#64) = false ∧ busy.phase ≠ .unbuilt ∧ State.unbuilt.phase = .unbuilt
      ∧ decodeRecord (encodeRecord (.transaction (.busAddDevice 0#64 .clint [])))
          = some (.transaction (.busAddDevice 0#64 .clint []))
      ∧ isConfiguration (.busAddDevice 0#64 .clint []) = true ∧ busy.queue = [] ∧ decodeRecord [1#8] = none
      ∧ decodeRecord (encodeRecord (.fence 0)) = some (.fence 0)
      ∧ decodeRecord (encodeRecord (.atomic .lr 0 4#64)) = some (.atomic .lr 0 4#64) := by
  decide +kernel

theorem witness_AtomicsAndFences :
    busy.phase ≠ .unbuilt ∧ decodeRecord (encodeRecord (.atomic .sc 1 0x80000000#64)) = some (.atomic .sc 1 0x80000000#64)
      ∧ decodeRecord (encodeRecord (.fence 1)) = some (.fence 1) := by decide +kernel

/-- Construction from nothing, and a step of a running block. -/
theorem witness_StepKeepsInv :
    (State.unbuilt.phase = .unbuilt
      ∧ Completes (step { State.unbuilt with queue := [encodeRecord (.transaction (.sysConstruct Config.standard))] }))
      ∧ busy.Inv ∧ Completes (step { busy with queue := [encodeRecord (.transaction (.clintTick 1#64))] }) :=
  ⟨⟨rfl, _, rfl⟩, busy_inv, _, rfl⟩

/-- A step of a running block, and one that adds a device before it runs. -/
theorem witness_ConfigurationIsFixed : ∃ t : State,
    busy.Inv ∧ busy.phase = .running
      ∧ Completes (step { busy with queue := [encodeRecord (.transaction (.plicSetPending 1 false))] })
      ∧ State.reset.Inv
      ∧ step { State.reset with queue := [encodeRecord (.transaction (.busAddDevice 0#64 (.ram 1) []))] } = .next t
      ∧ t.bus.length ≠ State.reset.bus.length :=
  ⟨_, busy_inv, rfl, ⟨_, rfl⟩, reset_inv, rfl, by decide +kernel⟩

theorem witness_EveryTransactionCompletes : isConfiguration (.wgpGate 9 9 0#64 0 .fetch) = false := by decide

end Sys2Proof.Tests
end

section
/-! Proofs about the byte strings of 00_scope.md R14: `leValue` inverts `leBytes`, and an appended byte is the most
significant one. -/

namespace Sys2Proof.Machine

@[simp] theorem leValue_leBytes (n v : Nat) : leValue (leBytes n v) = v % 2 ^ (8 * n) := by
  induction n generalizing v with
  | zero => simp [leBytes, leValue, Nat.mod_one]
  | succ n ih =>
    calc leValue (leBytes (n + 1) v)
      _ = v % 256 + 256 * (v / 256 % 2 ^ (8 * n)) := by simp [leBytes, leValue, ih]
      _ = v % (256 * 2 ^ (8 * n)) := Nat.mod_mul.symm
      _ = v % 2 ^ (8 * (n + 1)) := by rw [Nat.mul_succ, Nat.pow_add, Nat.mul_comm]

@[simp] theorem leBytes_leValue (b : Bytes) : leBytes b.length (leValue b) = b := by
  induction b with
  | nil => rfl
  | cons x b ih =>
    have head : BitVec.ofNat 8 (leValue (x :: b)) = x := by simpa using leValue_byte (x :: b) 0
    have tail : leValue (x :: b) / 256 = leValue b := by
      have := x.isLt
      simp only [leValue]
      omega
    rw [List.length_cons, leBytes, head, tail, ih]

theorem leValue_append_singleton (b : Bytes) (x : Byte) :
    leValue (b ++ [x]) = leValue b + x.toNat * 2 ^ (8 * b.length) := by
  induction b with
  | nil => simp [leValue]
  | cons y b ih =>
    simp only [List.cons_append, leValue, ih, List.length_cons]
    ring

/-- Settles O4: the length is `leBytes_length`, and each of the other three parts is an induction on the string. -/
theorem littleEndianBytes : Obligations.LittleEndianBytes :=
  ⟨fun n v => ⟨leBytes_length n v, leValue_leBytes n v⟩, leBytes_leValue, leValue_append_singleton⟩

end Sys2Proof.Machine
end

section
/-! Proofs about the device decode of 30_encoding.md section 3 (R123, the CLINT's families). -/

namespace Sys2Proof.Machine

/-- What `inside` decides. -/
theorem inside_eq_true (off len lo hi : Nat) : inside off len lo hi = true ↔ lo ≤ off ∧ off + len ≤ hi := by
  simp [inside]

/-- Settles O5: with at most 4095 harts MSIP ends below 0x4000 and MTIMECMP no later than 0xBFF8, so an access of at
least one byte lies in at most one of the three ranges, and the order of the tests does not matter. -/
theorem clintDecode : Obligations.ClintDecode := by
  intro n off len hn hlen
  simp only [clintFamily, inside_eq_true]
  split_ifs with hmsip hcmp htime
  · simp; omega
  · simp; omega
  · simp; omega
  · simp; omega

end Sys2Proof.Machine
end

section
/-! Proofs about the device decode of 30_encoding.md section 4 (R124, the PLIC's registers): the offsets of each register
under the layout of 00_scope.md R12. -/

namespace Sys2Proof.Machine

/-! ## The regions of R12 -/

section Layout
variable {c : Config} {A off : Nat}

/-- R12's bounds: each region ends where the next begins or before, and a stride holds what repeats at it. -/
theorem plicLayoutOk_bounds (h : plicLayoutOk c A = true) :
    c.priorityBase + 4 * (c.numSources + 1) ≤ c.pendingBase ∧ c.pendingBase + 4 * c.words ≤ c.enableBase
      ∧ 4 * c.words ≤ c.enableStride ∧ c.enableBase + A * c.enableStride ≤ c.contextBase ∧ 8 ≤ c.contextStride := by
  simp only [plicLayoutOk, Bool.and_eq_true, decide_eq_true_eq] at h
  omega

/-- An offset from a base is the quotient's step at the stride and the remainder within it. -/
theorem stride_split {base off stride a r : Nat} (hr : r < stride) :
    base ≤ off ∧ (off - base) / stride = a ∧ (off - base) % stride = r ↔ off = base + a * stride + r := by
  rw [Nat.div_mod_unique (by omega), Nat.mul_comm stride a]
  omega

/-- An offset whose step is one of the first `A` lies below the end of the `A` steps. -/
theorem lt_end_of_step_lt {base stride : Nat} (hs : 0 < stride) (h : (off - base) / stride < A) :
    off < base + A * stride := by
  have := (Nat.div_lt_iff_lt_mul hs).1 h
  omega

/-! ## The rows of R124 -/

theorem plicRegister_eq_priority (i : Nat) : plicRegister c A off = .priority i ↔
    1 ≤ i ∧ i ≤ c.numSources ∧ off = c.priorityBase + 4 * i := by
  constructor
  · intro h
    unfold plicRegister at h
    split at h
    · cases h; omega
    · split_ifs at h
  · rintro ⟨h1, h2, rfl⟩
    rw [plicRegister, if_pos (by omega)]
    congr 1
    omega

theorem plicRegister_eq_pending (hok : plicLayoutOk c A = true) (w : Nat) : plicRegister c A off = .pending w ↔
    w < c.words ∧ off = c.pendingBase + 4 * w := by
  obtain ⟨hpri, -⟩ := plicLayoutOk_bounds hok
  constructor
  · intro h
    unfold plicRegister at h
    split_ifs at h
    cases h
    omega
  · rintro ⟨hw, rfl⟩
    rw [plicRegister, if_neg (by omega), if_pos (by omega)]
    congr 1
    omega

theorem plicRegister_eq_enable (hok : plicLayoutOk c A = true) (a w : Nat) : plicRegister c A off = .enable a w ↔
    a < A ∧ w < c.words ∧ off = c.enableBase + a * c.enableStride + 4 * w := by
  obtain ⟨hpri, hpend, hstride, -⟩ := plicLayoutOk_bounds hok
  constructor
  · intro h
    unfold plicRegister at h
    split_ifs at h with _ _ hrow
    cases h
    obtain ⟨hbase, ha, hmod, hw⟩ := hrow
    exact ⟨ha, hw, (stride_split (by omega)).1 ⟨hbase, rfl, by omega⟩⟩
  · rintro ⟨ha, hw, hoff⟩
    obtain ⟨hbase, hdiv, hmod⟩ := (stride_split (by omega)).2 hoff
    rw [plicRegister, if_neg (by omega), if_neg (by omega), hdiv, hmod, if_pos (by omega)]
    congr 1
    omega

/-- At a context's offset none of the first three rows matches. -/
theorem plicRegister_of_contextBase_le (hok : plicLayoutOk c A = true) (hoff : c.contextBase ≤ off) :
    plicRegister c A off =
      if (off - c.contextBase) / c.contextStride < A ∧ (off - c.contextBase) % c.contextStride = 0 then
        .threshold ((off - c.contextBase) / c.contextStride)
      else if (off - c.contextBase) / c.contextStride < A ∧ (off - c.contextBase) % c.contextStride = 4 then
        .claim ((off - c.contextBase) / c.contextStride)
      else .reserved := by
  obtain ⟨hpri, hpend, hstride, hen, -⟩ := plicLayoutOk_bounds hok
  have hwords : 0 < c.words := Nat.succ_pos _
  have hpast : ¬(off - c.enableBase) / c.enableStride < A := by
    intro hlt
    have := lt_end_of_step_lt (by omega) hlt
    omega
  rw [plicRegister, if_neg (by omega), if_neg (by omega), if_neg (by omega)]
  simp only [hoff, true_and]

theorem plicRegister_eq_threshold (hok : plicLayoutOk c A = true) (a : Nat) : plicRegister c A off = .threshold a ↔
    a < A ∧ off = c.contextBase + a * c.contextStride := by
  obtain ⟨-, -, -, -, hctx⟩ := plicLayoutOk_bounds hok
  constructor
  · intro h
    unfold plicRegister at h
    split_ifs at h with _ _ _ hrow
    cases h
    obtain ⟨hbase, ha, hmod⟩ := hrow
    exact ⟨ha, (stride_split (by omega)).1 ⟨hbase, rfl, hmod⟩⟩
  · rintro ⟨ha, hoff⟩
    obtain ⟨hbase, hdiv, hmod⟩ := (stride_split (r := 0) (by omega)).2 hoff
    rw [plicRegister_of_contextBase_le hok hbase, hdiv, hmod, if_pos ⟨ha, rfl⟩]

theorem plicRegister_eq_claim (hok : plicLayoutOk c A = true) (a : Nat) : plicRegister c A off = .claim a ↔
    a < A ∧ off = c.contextBase + a * c.contextStride + 4 := by
  obtain ⟨-, -, -, -, hctx⟩ := plicLayoutOk_bounds hok
  constructor
  · intro h
    unfold plicRegister at h
    split_ifs at h with _ _ _ _ hrow
    cases h
    obtain ⟨hbase, ha, hmod⟩ := hrow
    exact ⟨ha, (stride_split (by omega)).1 ⟨hbase, rfl, hmod⟩⟩
  · rintro ⟨ha, hoff⟩
    obtain ⟨hbase, hdiv, hmod⟩ := (stride_split (by omega)).2 hoff
    rw [plicRegister_of_contextBase_le hok hbase, hdiv, hmod, if_neg (by omega), if_pos ⟨ha, rfl⟩]

/-- What no row's condition meets is reserved: the register selected is one of the six, and the five lemmas above say
what each of the others would mean. -/
theorem plicRegister_eq_reserved (hok : plicLayoutOk c A = true) : plicRegister c A off = .reserved ↔
    (∀ i, ¬(1 ≤ i ∧ i ≤ c.numSources ∧ off = c.priorityBase + 4 * i))
      ∧ (∀ w, ¬(w < c.words ∧ off = c.pendingBase + 4 * w))
      ∧ (∀ a w, ¬(a < A ∧ w < c.words ∧ off = c.enableBase + a * c.enableStride + 4 * w))
      ∧ (∀ a, ¬(a < A ∧ off = c.contextBase + a * c.contextStride))
      ∧ (∀ a, ¬(a < A ∧ off = c.contextBase + a * c.contextStride + 4)) := by
  simp only [← plicRegister_eq_priority (c := c) (A := A), ← plicRegister_eq_pending hok,
    ← plicRegister_eq_enable hok, ← plicRegister_eq_threshold hok, ← plicRegister_eq_claim hok]
  cases plicRegister c A off <;> simp

end Layout

/-! ## The access -/

/-- Nothing is selected exactly by an access that is not of R220's shape. -/
theorem plicSelects_eq_none (s : State) (off len : Nat) :
    s.plicSelects off len = none ↔ ¬(len = 4 ∧ off % 4 = 0) := by
  simp [State.plicSelects, plicAligned]

theorem plicSelects_eq_some_of_aligned (s : State) {off len : Nat} (hlen : len = 4) (hoff : off % 4 = 0)
    (x : PlicRegister) : s.plicSelects off len = some x ↔ plicRegister s.cfg s.contexts.length off = x := by
  rw [plicSelects_eq_some, and_iff_right (by simp [plicAligned, hlen, hoff])]

/-- Settles O6: an aligned access selects the register of its offset, and each row is the lemma of that register. -/
theorem plicDecode : Obligations.PlicDecode := by
  intro s off len hok
  refine ⟨plicSelects_eq_none s off len, fun hlen hoff => ?_⟩
  simp only [plicSelects_eq_some_of_aligned s hlen hoff]
  exact ⟨plicRegister_eq_priority, plicRegister_eq_pending hok, plicRegister_eq_enable hok,
    plicRegister_eq_threshold hok, plicRegister_eq_claim hok, plicRegister_eq_reserved hok⟩

end Sys2Proof.Machine
end

section
/-! Proofs about the bus's lookup (40_bus.md section 3, R163): each step keeps an entry at least as high as the one it
held, so the entry at the end is at least as high as every candidate of the map. -/

namespace Sys2Proof.Machine

theorem better_of_lt {addr : Nat} {e : BusEntry} (h : addr < e.base) (o : Option BusEntry) : better addr o e = o :=
  if_neg (Nat.not_le.2 h)

theorem better_none_of_le {addr : Nat} {e : BusEntry} (h : e.base ≤ addr) : better addr none e = some e := if_pos h

theorem better_some_of_le {addr : Nat} {e : BusEntry} (h : e.base ≤ addr) (b : BusEntry) :
    better addr (some b) e = if b.base ≤ e.base then some e else some b := if_pos h

/-- A step gives up an entry only for one that is not lower. -/
theorem better_some_ge (addr : Nat) (b e : BusEntry) : ∃ y, better addr (some b) e = some y ∧ b.base ≤ y.base := by
  by_cases he : e.base ≤ addr
  · rw [better_some_of_le he]
    split_ifs with hbe
    · exact ⟨e, rfl, hbe⟩
    · exact ⟨b, rfl, le_rfl⟩
  · exact ⟨b, better_of_lt (Nat.lt_of_not_le he) _, le_rfl⟩

/-- A step to an entry that is not above the address leaves one that is not lower than it. -/
theorem better_candidate_ge {addr : Nat} {e : BusEntry} (he : e.base ≤ addr) (o : Option BusEntry) :
    ∃ y, better addr o e = some y ∧ e.base ≤ y.base := by
  cases o with
  | none => exact ⟨e, better_none_of_le he, le_rfl⟩
  | some b =>
    rw [better_some_of_le he]
    split_ifs with hbe
    · exact ⟨e, rfl, le_rfl⟩
    · exact ⟨b, rfl, Nat.le_of_not_le hbe⟩

theorem foldl_better_some_ge (addr : Nat) (l : List BusEntry) (b : BusEntry) :
    ∃ y, l.foldl (better addr) (some b) = some y ∧ b.base ≤ y.base := by
  induction l generalizing b with
  | nil => exact ⟨b, rfl, le_rfl⟩
  | cons e l ih =>
    obtain ⟨c, hc, hbc⟩ := better_some_ge addr b e
    obtain ⟨y, hy, hcy⟩ := ih c
    exact ⟨y, by rw [List.foldl_cons, hc, hy], hbc.trans hcy⟩

/-- R163: the lookup finds an entry at least as high as any that is not above the address. -/
theorem findDevice_ge_of_mem {bus : List BusEntry} {addr : Nat} {x : BusEntry} (hx : x ∈ bus) (hb : x.base ≤ addr) :
    ∃ e, findDevice bus addr = some e ∧ x.base ≤ e.base := by
  obtain ⟨l, r, rfl⟩ := List.append_of_mem hx
  obtain ⟨c, hc, hxc⟩ := better_candidate_ge hb (l.foldl (better addr) none)
  obtain ⟨e, he, hce⟩ := foldl_better_some_ge addr r c
  exact ⟨e, by rw [findDevice, List.foldl_append, List.foldl_cons, hc, he], hxc.trans hce⟩

/-- R163: the entry the lookup gives is one of the map. -/
theorem findDevice_mem {bus : List BusEntry} {addr : Nat} {e : BusEntry} (h : findDevice bus addr = some e) :
    e ∈ bus :=
  (foldl_better_mem addr bus none e h).resolve_right (by simp)

theorem findDevice_eq_none (bus : List BusEntry) (addr : Nat) :
    findDevice bus addr = none ↔ ∀ x ∈ bus, addr < x.base := by
  constructor
  · intro hnone x hx
    by_contra hle
    obtain ⟨e, he, -⟩ := findDevice_ge_of_mem hx (Nat.le_of_not_lt hle)
    simp [hnone] at he
  · exact foldl_better_skip addr bus none

/-- Settles O41: for every candidate the lookup finds an entry at least as high, and it has only one answer. The
name is not the bare `findDevice`, which is the model's own definition. -/
theorem findDevice_spec : Obligations.FindDevice := by
  intro bus addr
  refine ⟨fun e he => ⟨findDevice_mem he, findDevice_base bus addr e he, fun x hx hb => ?_⟩,
    findDevice_eq_none bus addr⟩
  obtain ⟨y, hy, hxy⟩ := findDevice_ge_of_mem hx hb
  cases he.symm.trans hy
  exact hxy

end Sys2Proof.Machine
end

section
/-! Proofs about the PLIC's arbitration (42_plic.md section 1, R230, R231): each turn of the loop over the ids keeps what
`IsBest` says, for the ids visited so far. -/

namespace Sys2Proof.Machine

variable {s : State} {a k i bp : Nat}

/-- R231 for the ids below `k` alone: `i` is the best of them, or 0, and `bp` is its priority, or 0. -/
structure IsBestBelow (s : State) (a k i bp : Nat) : Prop where
  id_lt : i < k
  source : (i = 0 ∧ bp = 0) ∨ (Eligible s a i ∧ bp = (s.plic.prio i).toNat)
  greatest : ∀ j < k, Eligible s a j →
    (s.plic.prio j).toNat < bp ∨ ((s.plic.prio j).toNat = bp ∧ i ≤ j)

/-- R230: the threshold is at least 0, so an eligible IRQ has a priority above 0. -/
theorem Eligible.prio_pos (h : Eligible s a i) : 0 < (s.plic.prio i).toNat := by
  obtain ⟨-, -, -, -, -, hthresh⟩ := h
  exact Nat.zero_lt_of_lt hthresh

theorem Eligible.id_le (h : Eligible s a i) : i ≤ s.cfg.numSources := h.2.1

/-- Id 0 is never eligible, so before the loop there is none. -/
theorem isBestBelow_one (s : State) (a : Nat) : IsBestBelow s a 1 0 0 where
  id_lt := Nat.one_pos
  source := .inl ⟨rfl, rfl⟩
  greatest _ hj he := absurd he.1 (Nat.not_le.2 hj)

/-- An eligible id of higher priority than the best so far takes its place. -/
theorem IsBestBelow.take (h : IsBestBelow s a k i bp) (he : Eligible s a k) (hlt : bp < (s.plic.prio k).toNat) :
    IsBestBelow s a (k + 1) k (s.plic.prio k).toNat where
  id_lt := Nat.lt_succ_self k
  source := .inr ⟨he, rfl⟩
  greatest j hj hej := by
    rcases Nat.lt_succ_iff_lt_or_eq.1 hj with hjk | rfl
    · have := h.greatest j hjk hej
      omega
    · exact .inr ⟨rfl, le_rfl⟩

/-- Any other id leaves the best so far in place: at equal priority the earlier id is the lower one. -/
theorem IsBestBelow.keep (h : IsBestBelow s a k i bp) (hk : Eligible s a k → (s.plic.prio k).toNat ≤ bp) :
    IsBestBelow s a (k + 1) i bp where
  id_lt := Nat.lt_succ_of_lt h.id_lt
  source := h.source
  greatest j hj hej := by
    rcases Nat.lt_succ_iff_lt_or_eq.1 hj with hjk | rfl
    · exact h.greatest j hjk hej
    · have := hk hej
      have := h.id_lt
      omega

/-- The test of a turn of the loop. -/
theorem turn_takes_iff :
    (eligible s a k && decide (bp < (s.plic.prio k).toNat)) = true ↔ Eligible s a k ∧ bp < (s.plic.prio k).toNat := by
  rw [Bool.and_eq_true, eligible_iff, decide_eq_true_eq]

/-- `n` turns of the loop extend the best of the ids below `k` to the best of those below `k + n`. -/
theorem IsBestBelow.scan (h : IsBestBelow s a k i bp) (n : Nat) :
    ∃ p, IsBestBelow s a (k + n) (bestFrom s a n k i bp) p := by
  induction n generalizing k i bp with
  | zero => exact ⟨bp, h⟩
  | succ n ih =>
    rw [bestFrom, Nat.add_comm n, ← Nat.add_assoc]
    split_ifs with hturn
    · obtain ⟨he, hlt⟩ := turn_takes_iff.1 hturn
      exact ih (h.take he hlt)
    · exact ih (h.keep fun he => Nat.le_of_not_lt fun hlt => hturn (turn_takes_iff.2 ⟨he, hlt⟩))

/-- The best of the ids up to the last source is the best of all. -/
theorem IsBestBelow.isBest (h : IsBestBelow s a (1 + s.cfg.numSources) i bp) : IsBest s a i := by
  have hall (j : Nat) (he : Eligible s a j) := h.greatest j (by have := he.id_le; omega) he
  rcases h.source with ⟨rfl, rfl⟩ | ⟨he, rfl⟩
  · refine .inl ⟨rfl, fun j hj => ?_⟩
    have := hall j hj
    have := hj.prio_pos
    omega
  · exact .inr ⟨he, fun j hj => (hall j hj).imp_right (And.imp_left BitVec.eq_of_toNat_eq)⟩

/-- Settles O19: the loop starts with nothing before id 1, and its turns reach the last source. -/
theorem bestIsGreatestEligible : Obligations.BestIsGreatestEligible := by
  intro s a
  obtain ⟨p, hbest⟩ := (isBestBelow_one s a).scan s.cfg.numSources
  exact hbest.isBest

end Sys2Proof.Machine
end

section
/-! Proofs about the world-guard's registers (43_worldguard.md sections 2 to 4): a trusted hart's load of a register
answers the window that the device's register operation reads, and its store of the filter's mask patches it. -/

namespace Sys2Proof

/-! ## The fields of a PMP block: offset, size and value (R127, R290) -/

/-- The offset of a field in its block. -/
def PmpField.start : PmpField → Nat
  | .perm => 0x00
  | .basePage => 0x04
  | .pageCount => 0x0C
  | .lock => 0x14

/-- The bytes of a field. -/
def PmpField.size : PmpField → Nat
  | .perm | .lock => 4
  | .basePage | .pageCount => 8

/-- A field's value in a block. -/
def PmpField.value : (f : PmpField) → Machine.PmpBlock → BitVec (8 * f.size)
  | .perm, x => x.perm
  | .basePage, x => x.basePage
  | .pageCount, x => x.pageCount
  | .lock, x => x.lock

theorem PmpField.start_add_size_le (f : PmpField) : f.start + f.size ≤ 0x18 := by cases f <;> decide

end Sys2Proof

namespace Sys2Proof.Machine

/-! ## Windows in the terms of IsWindow and IsPatched -/

theorem readWindow_isWindow {w : Nat} (v : BitVec w) {k len : Nat} (h : k + len ≤ w / 8) :
    IsWindow v k len (readWindow v k len) :=
  ⟨readWindow_length v k len h, fun j hj => readWindow_byte v k len j h hj⟩

/-- The bytes after a store leave no choice of the register's value. -/
theorem IsPatched.eq_writeWindow {w k : Nat} {old new : BitVec w} {b : Bytes} (h : IsPatched old k b new)
    (hw : w % 8 = 0) (hk : k + b.length ≤ w / 8) : writeWindow old k b = new :=
  eq_of_bytes _ _ hw fun j hj => (writeWindow_byte old k b j hw hk hj).trans (h j hj).symm

/-! ## A trusted hart's access at a guard device -/

section TrustedAccess
variable {s : State} {i : Instr} {g : GuardDevice}

theorem InTrustedWorld.trusted {h : Nat} (ht : InTrustedWorld s h) : s.trusted h = true := by
  obtain ⟨x, hx, hw⟩ := ht
  simp [State.trusted, State.worldOf, hx, hw]

/-- Every row of a guard device, by a trusted hart and forwarded by the bus, is its register's load (R122, R270). -/
theorem exec_eq_registerLoad {r : LoadReq} (hi : portAccess i = some (guardDevice g, .load r))
    (ht : InTrustedWorld s r.hart) (hf : forwards s.cfg (guardDevice g) r.off r.len = true) :
    exec i s = finishLoad r.hart r.kind (s.portAddr (guardDevice g) r.off) (registerLoad g r s) := by
  have hserve : guardLoad g r s = registerLoad g r s := if_pos ht.trusted
  rw [exec_eq_port hi, atPort, portLoad_of_forwards _ _ _ _ hf, ← hserve]
  cases g <;> rfl

/-- As `exec_eq_registerLoad`, for a store. -/
theorem exec_eq_registerStore {r : StoreReq} (hi : portAccess i = some (guardDevice g, .store r))
    (ht : InTrustedWorld s r.hart) (hf : forwards s.cfg (guardDevice g) r.off r.data.length = true) :
    exec i s = finishStore r.hart (s.portAddr (guardDevice g) r.off) (registerStore g r s) := by
  have hserve : guardStore g r s = registerStore g r s := if_pos ht.trusted
  rw [exec_eq_port hi, atPort, portStore_of_forwards _ _ _ _ hf, ← hserve]
  cases g <;> rfl

/-- A register load that reads a window answers its bytes and changes nothing else. -/
theorem exec_answers_window {w k : Nat} {v : BitVec w} {r : LoadReq}
    (hi : portAccess i = some (guardDevice g, .load r)) (ht : InTrustedWorld s r.hart)
    (hf : forwards s.cfg (guardDevice g) r.off r.len = true)
    (hreg : registerLoad g r s = (s, some (readWindow v k r.len))) (hk : k + r.len ≤ w / 8) :
    ∃ b, IsWindow v k r.len b ∧ exec i s = .next { s with out := .loaded b } :=
  ⟨_, readWindow_isWindow v hk, by rw [exec_eq_registerLoad hi ht hf, hreg]; rfl⟩

end TrustedAccess

/-! ## What the bus forwards to a guard device -/

theorem forwards_marker {c : Config} {m off len : Nat} (hm : m < c.nHarts) (hl : 1 ≤ len) (h : off + len ≤ 8) :
    forwards c (.marker m) off len = true :=
  (forwards_eq_true _ _ _ _).2 ⟨8, if_pos hm, Nat.ne_of_gt hl, h⟩

theorem forwards_filter {c : Config} {f off len : Nat} (hf : f < c.filters.length) (hl : 1 ≤ len) (h : off + len ≤ 4) :
    forwards c (.filter f) off len = true :=
  (forwards_eq_true _ _ _ _).2 ⟨4, if_pos hf, Nat.ne_of_gt hl, h⟩

/-- A PMP is as long as its blocks (R45). -/
theorem forwards_pmp {s : State} {p off len : Nat} {bs : List PmpBlock} (hs : s.Shape) (hp : s.pmps[p]? = some bs)
    (hl : 1 ≤ len) (h : off + len ≤ 0x18 * bs.length) : forwards s.cfg (.pmp p) off len = true := by
  obtain ⟨-, -, -, -, -, -, -, -, -, -, hpmps⟩ := hs
  have hsize : deviceSize s.cfg (.pmp p) = some (0x18 * bs.length) := by simp [deviceSize, ← hpmps, hp]
  exact (forwards_eq_true _ _ _ _).2 ⟨_, hsize, Nat.ne_of_gt hl, h⟩

theorem State.Inv.shape {s : State} (h : s.Inv) : s.Shape := by
  obtain ⟨-, -, -, hshape, -⟩ := h
  exact hshape

/-! ## The marker (R125) -/

theorem markerRegister_wid {off len : Nat} (h : off + len ≤ 4) : markerRegister off len = some .wid :=
  if_pos ((inside_eq_true _ _ _ _).2 ⟨Nat.zero_le _, h⟩)

theorem markerRegister_lock {off len : Nat} (hl : 1 ≤ len) (ho : 4 ≤ off) (h : off + len ≤ 8) :
    markerRegister off len = some .lock := by
  rw [markerRegister, if_neg (by rw [inside_eq_true]; omega), if_pos ((inside_eq_true _ _ _ _).2 ⟨ho, h⟩)]

/-- Settles O31: the offset selects the register, and the port answers its window. -/
theorem markerLoads : Obligations.MarkerLoads := by
  intro s m r _ hm ht hl
  refine ⟨fun hwid => ?_, fun hlo hhi => ?_⟩
  · have hreg : registerLoad (.marker m) r s = ldMarkerWid m r s := by simp [registerLoad, markerRegister_wid hwid]
    exact exec_answers_window (g := .marker m) rfl ht (forwards_marker hm hl (by omega)) hreg hwid
  · have hreg : registerLoad (.marker m) r s = ldMarkerLock m r s := by
      simp [registerLoad, markerRegister_lock hl hlo hhi]
    exact exec_answers_window (g := .marker m) rfl ht (forwards_marker hm hl hhi) hreg (by omega)

/-! ## The filter's register (R126) -/

theorem filterRegister_eq_true (off len : Nat) : filterRegister off len = true ↔ off + len ≤ 4 := by
  simp [filterRegister, inside_eq_true]

/-- Settles O34: the one register takes every access inside it, and the stored mask is the patched one. -/
theorem filterRegister_spec : Obligations.FilterRegister := by
  refine ⟨fun s f r _ hf ht hl hin => ?_, fun s f r new _ hf ht hl hin hnew => ?_⟩
  · have hreg : registerLoad (.filter f) r s = ldFilterWid f r s := if_pos ((filterRegister_eq_true _ _).2 hin)
    exact exec_answers_window (g := .filter f) rfl ht (forwards_filter hf hl hin) hreg hin
  · have hreg : registerStore (.filter f) r s = stFilterWid f r s := if_pos ((filterRegister_eq_true _ _).2 hin)
    rw [exec_eq_registerStore (g := .filter f) rfl ht (forwards_filter hf hl hin), hreg, stFilterWid,
      hnew.eq_writeWindow (by decide) hin]
    rfl

/-! ## The PMP's registers (R127, R290) -/

/-- Bytes inside a field of block `k` select that field of that block. -/
theorem pmpField_of_inside {k j len : Nat} (f : PmpField) (hl : 1 ≤ len) (h : j + len ≤ f.size) :
    pmpField (0x18 * k + f.start + j) len = some (k, f) := by
  have hfit := f.start_add_size_le
  have hblock : (0x18 * k + f.start + j) / 0x18 = k := by omega
  have hfield : (0x18 * k + f.start + j) % 0x18 = f.start + j := by omega
  cases f <;> simp only [PmpField.start, PmpField.size] at h hblock hfield ⊢ <;>
    simp only [pmpField, inside_eq_true, hblock, hfield]
  case perm => rw [if_pos (by omega)]
  case basePage => rw [if_neg (by omega), if_pos (by omega)]
  case pageCount => rw [if_neg (by omega), if_neg (by omega), if_pos (by omega)]
  case lock => rw [if_neg (by omega), if_neg (by omega), if_neg (by omega), if_pos (by omega)]

/-- Once the field is selected, the port's operation is the load of its window, whichever of the four it is. -/
theorem registerLoad_pmp {s : State} {p k : Nat} {f : PmpField} {r : LoadReq}
    (h : pmpField r.off r.len = some (k, f)) :
    registerLoad (.pmp p) r s = (s, some (readWindow (f.value (s.block p k)) (r.off % 0x18 - f.start) r.len)) := by
  cases f <;> simp only [registerLoad, h] <;> rfl

/-- A trusted hart's load inside a field of a PMP block answers its bytes, whichever row it is. -/
theorem exec_pmpField_window {s : State} {p k j : Nat} {bs : List PmpBlock} {x : PmpBlock} {r : LoadReq} {i : Instr}
    (f : PmpField) (hs : s.Shape) (hp : s.pmps[p]? = some bs) (hx : bs[k]? = some x) (ht : InTrustedWorld s r.hart)
    (hl : 1 ≤ r.len) (hi : portAccess i = some (.pmp p, .load r)) (hoff : r.off = 0x18 * k + f.start + j)
    (hj : j + r.len ≤ f.size) :
    ∃ b, IsWindow (f.value x) j r.len b ∧ exec i s = .next { s with out := .loaded b } := by
  have hfit := f.start_add_size_le
  have hk : k < bs.length := (List.getElem?_eq_some_iff.1 hx).1
  have hblock : s.block p k = x := by simp [State.block, hp, hx]
  have hreg := registerLoad_pmp (s := s) (p := p) (hoff ▸ pmpField_of_inside (k := k) f hl hj)
  rw [hblock, show r.off % 0x18 - f.start = j by omega] at hreg
  exact exec_answers_window (g := .pmp p) hi ht (forwards_pmp hs hp hl (by omega)) hreg (by omega)

/-- Settles O36: each of the four rows, at its own field. -/
theorem pmpLoads : Obligations.PmpLoads := by
  intro s p k j bs x r hinv hp hx ht hl
  have hs := hinv.shape
  exact ⟨exec_pmpField_window .perm hs hp hx ht hl rfl, exec_pmpField_window .basePage hs hp hx ht hl rfl,
    exec_pmpField_window .pageCount hs hp hx ht hl rfl, exec_pmpField_window .lock hs hp hx ht hl rfl⟩

end Sys2Proof.Machine
end

section
/-! Proofs about the records of 30_encoding.md section 1 in the model's layout (log entry 1): the decoder undoes the
encoder, on words and on bytes. -/

namespace Sys2Proof

variable {row : Nat} {ws : Words}

/-! ## The rows of the opcode table, by the fields they carry -/

theorem decode_loadRecord {mk : LoadReq → Instr} (hrow : row < 2 ^ 64)
    (hparse : ∀ head ws, parseRow row head ws = parseLoadRow mk head.toNat ws) {r : LoadReq} (h : r.wf = true) :
    decode (loadRecord row [] r ++ ws) = some (mk r, ws) := by
  rw [loadRecord, decode_record _ _ _ _ hrow, hparse, BitVec.toNat_ofNat, r.off_mod h]
  simp [parseLoadRow, parseLoadReq_encLoadRest ws r h]

theorem decode_storeRecord {mk : StoreReq → Instr} (hrow : row < 2 ^ 64)
    (hparse : ∀ head ws, parseRow row head ws = parseStoreRow mk head.toNat ws) {r : StoreReq} (h : r.wf = true) :
    decode (storeRecord row [] r ++ ws) = some (mk r, ws) := by
  rw [storeRecord, decode_record _ _ _ _ hrow, hparse, BitVec.toNat_ofNat, r.off_mod h]
  simp [parseStoreRow, parseStoreReq_encStoreRest ws r h]

theorem decode_indexedLoadRecord {mk : Nat → LoadReq → Instr} (hrow : row < 2 ^ 64)
    (hparse : ∀ head ws, parseRow row head ws = parseIndexedLoadRow mk head.toNat ws) {d : Nat} {r : LoadReq}
    (h : (fits d && r.wf) = true) : decode (loadRecord row (encNat d) r ++ ws) = some (mk d r, ws) := by
  obtain ⟨hd, hr⟩ := (Bool.and_eq_true _ _).mp h
  rw [loadRecord, decode_record _ _ _ _ hrow, hparse, BitVec.toNat_ofNat, r.off_mod hr]
  simp [parseIndexedLoadRow, parseNat_encNat _ d hd, parseLoadReq_encLoadRest ws r hr]

theorem decode_indexedStoreRecord {mk : Nat → StoreReq → Instr} (hrow : row < 2 ^ 64)
    (hparse : ∀ head ws, parseRow row head ws = parseIndexedStoreRow mk head.toNat ws) {d : Nat} {r : StoreReq}
    (h : (fits d && r.wf) = true) : decode (storeRecord row (encNat d) r ++ ws) = some (mk d r, ws) := by
  obtain ⟨hd, hr⟩ := (Bool.and_eq_true _ _).mp h
  rw [storeRecord, decode_record _ _ _ _ hrow, hparse, BitVec.toNat_ofNat, r.off_mod hr]
  simp [parseIndexedStoreRow, parseNat_encNat _ d hd, parseStoreReq_encStoreRest ws r hr]

theorem decode_guardRecord {mk : GuardDevice → Access → Instr} (hrow : row < 2 ^ 64)
    (hparse : ∀ head ws, parseRow row head ws = parseGuardRow mk head.toNat ws) {g : GuardDevice} {a : Access}
    (h : (g.wf && a.wf) = true) : decode (accessRecord row (encGuardDevice g) a ++ ws) = some (mk g a, ws) := by
  obtain ⟨hg, ha⟩ := (Bool.and_eq_true _ _).mp h
  rw [accessRecord, decode_record _ _ _ _ hrow, hparse, BitVec.toNat_ofNat, a.off_mod ha]
  simp [parseGuardRow, parseGuardDevice_encGuardDevice _ g hg, parseAccess_encAccessRest ws a ha]

theorem decode_gateRecord {mk : Nat → Nat → Word64 → Nat → AccessKind → Instr} (hrow : row < 2 ^ 64)
    (hparse : ∀ head ws, parseRow row head ws = parseGateRow mk head ws) {g h len : Nat} {addr : Word64}
    {k : AccessKind} (hwf : (fits g && fits h && fits len) = true) :
    decode (record addr row (encNat g ++ encGateRest h len k) ++ ws) = some (mk g h addr len k, ws) := by
  simp only [Bool.and_eq_true] at hwf
  obtain ⟨⟨hg, hh⟩, hlen⟩ := hwf
  rw [decode_record _ _ _ _ hrow, hparse]
  simp [parseGateRow, encGateRest, parseNat_encNat, hg, hh, hlen, parseAccessKind_encAccessKind]

/-- Settles O1: a row is decoded by its number, and each reader undoes its writer. -/
theorem decodeInvertsEncode : Obligations.DecodeInvertsEncode := by
  intro i rest h
  cases i
  case busLoad hart addr len k =>
    obtain ⟨hh, hlen⟩ := (Bool.and_eq_true _ _).mp h
    rw [encode, decode_record _ _ _ _ (by decide)]
    simp [parseRow, parseNat_encNat, hh, hlen, parseLoadKind_encLoadKind]
  case busStore hart addr data =>
    obtain ⟨hh, hdata⟩ := (Bool.and_eq_true _ _).mp h
    rw [encode, decode_record _ _ _ _ (by decide)]
    simp [parseRow, parseNat_encNat, hh, parseData_encData _ _ hdata]
  case busAddDevice base d gs =>
    simp only [Instr.wf, Bool.and_eq_true] at h
    obtain ⟨⟨hd, hlen⟩, hgs⟩ := h
    rw [encode, decode_record _ _ _ _ (by decide)]
    simp [parseRow, parseDevice_encDevice _ _ hd, parseGuards_encList _ _ hlen hgs]
  case sysConstruct c =>
    rw [encode, decode_record _ _ _ _ (by decide)]
    simp [parseRow, parseConfig_encConfig _ c h]
  case clintTick inc => exact decode_record rest inc 12 [] (by decide)
  case plicMisaligned a =>
    rw [encode, accessRecord, decode_record _ _ _ _ (by decide), parseRow, BitVec.toNat_ofNat, a.off_mod h]
    simp [parseAccess_encAccessRest rest a h]
  case plicSetPending irq level =>
    have hirq : irq < 2 ^ 64 := of_decide_eq_true h
    rw [encode, decode_record _ _ _ _ (by decide), parseRow, BitVec.toNat_ofNat, Nat.mod_eq_of_lt hirq]
    simp [parseBool_encBool]
  case wgUntrusted | wgCrossing => exact decode_guardRecord (by decide) (fun _ _ => rfl) h
  case wgfGate | wgpGate => exact decode_gateRecord (by decide) (fun _ _ => rfl) h
  case clintLdMsip | clintLdMtimecmp | clintLdMtime | clintLdReserved | plicLdPriority | plicLdPending | plicLdEnable
      | plicLdThreshold | plicLdClaim | plicLdReserved =>
    exact decode_loadRecord (by decide) (fun _ _ => rfl) h
  case clintStMsip | clintStMtimecmp | clintStMtime | clintStReserved | plicStPriority | plicStPending | plicStEnable
      | plicStThreshold | plicStComplete | plicStReserved =>
    exact decode_storeRecord (by decide) (fun _ _ => rfl) h
  case wgmLdWid | wgmLdLock | wgfLdWid | wgpLdPerm | wgpLdBase | wgpLdCount | wgpLdLock =>
    exact decode_indexedLoadRecord (by decide) (fun _ _ => rfl) h
  case wgmStWid | wgmStLock | wgfStWid | wgpStPerm | wgpStBase | wgpStCount | wgpStLock =>
    exact decode_indexedStoreRecord (by decide) (fun _ _ => rfl) h

/-! ## Requests and their bytes -/

/-- A row's number is neither that of an atomic access nor that of a fence. -/
theorem decodeRequest_encode (i : Instr) :
    decodeRequest (encode i ++ ws) = (decode (encode i ++ ws)).map fun p => (.transaction p.1, p.2) := by
  obtain ⟨head, row, rest, henc, hrow⟩ := encode_eq_record i
  have hnum : (BitVec.ofNat 64 row).toNat = row := by rw [BitVec.toNat_ofNat]; omega
  rw [henc, decode_record _ _ _ _ (by omega)]
  simp only [decodeRequest, record, List.cons_append, hnum]
  split
  · omega
  · omega
  · rfl

theorem decodeRequest_encodeRequest (r : Request) (h : r.wf = true) :
    decodeRequest (encodeRequest r ++ ws) = some (r, ws) := by
  cases r with
  | transaction i => rw [encodeRequest, decodeRequest_encode, decodeInvertsEncode i ws h]; rfl
  | atomic k hart addr =>
    simp [encodeRequest, record, decodeRequest, parseAtomicKind_encAtomicKind, parseNat_encNat _ hart h]
  | fence hart => simp [encodeRequest, record, decodeRequest, parseNat_encNat _ hart h]

/-- Settles O2: the words come back from the bytes, the request from the words, and zero words may follow it. -/
theorem recordsRoundTrip : Obligations.RecordsRoundTrip := by
  intro r n h
  rw [decodeRecord, encodeRecord, ← bytesOfWords_append, wordsOfBytes_bytesOfWords]
  simp [decodeRequest_encodeRequest r h]

/-- Settles O3: the decoder runs on each of the six records. -/
theorem sampleRecordsDecode : Obligations.SampleRecordsDecode := by
  unfold Obligations.SampleRecordsDecode
  decide

end Sys2Proof
end

section
/-! Proofs about construction (70_reset_and_hazards.md R360): the text of HART_CONFIG (42_plic.md R262), the bus map
(40_bus.md R164), and the state that accepted parameters give (10_state.md R49). -/

namespace Sys2Proof.Machine

/-! ## HART_CONFIG -/

/-- D30: the four characters that are modes. -/
theorem modeOf_ne_none (ch : Char) : modeOf ch ≠ none ↔ ch ∈ ['M', 'S', 'U', 'H'] := by
  unfold modeOf
  split_ifs <;> simp_all

/-- D30: no two characters are one mode. -/
theorem eq_of_modeOf_eq {x y : Char} (hx : modeOf x ≠ none) (h : modeOf x = modeOf y) : x = y := by
  unfold modeOf at hx h
  split_ifs at hx h <;> simp_all

/-- One hart's characters, matched with pairs of the hart and a mode, are matched with modes. -/
theorem modes_of_map_eq {h : Nat} {seg : List Char} {ps : List (Nat × Mode)}
    (hmap : ps.map (fun p => (p.1, some p.2)) = seg.map (fun ch => (h, modeOf ch))) :
    ∃ mds : List Mode, ps = mds.map (fun md => (h, md)) ∧ seg.map modeOf = mds.map some := by
  induction seg generalizing ps with
  | nil => exact ⟨[], by simpa using hmap, rfl⟩
  | cons ch seg ih =>
    cases ps with
    | nil => simp at hmap
    | cons p ps =>
      simp only [List.map_cons, List.cons.injEq, Prod.mk.injEq] at hmap
      obtain ⟨⟨hhart, hmode⟩, hrest⟩ := hmap
      obtain ⟨mds, rfl, hmds⟩ := ih hrest
      exact ⟨p.2 :: mds, by simp [← hhart], by simp [← hmode, hmds]⟩

/-- A mode that is matched with a character is one of the character's hart. -/
theorem exists_char_of_mem {ps : List (Nat × Mode)} {chars : List (Nat × Char)}
    (hmap : ps.map (fun p => (p.1, some p.2)) = chars.map (fun p => (p.1, modeOf p.2))) {p : Nat × Mode} (hp : p ∈ ps) :
    ∃ q ∈ chars, q.1 = p.1 := by
  have hmem := List.mem_map_of_mem (f := fun p : Nat × Mode => (p.1, some p.2)) hp
  rw [hmap] at hmem
  obtain ⟨q, hq, he⟩ := List.mem_map.1 hmem
  exact ⟨q, hq, (Prod.mk.inj he).1⟩

/-- The modes of the segments from hart `h` on: those of their characters, none twice in a hart. -/
theorem parseSegments_eq_ok (h : Nat) (segs : List (List Char)) (ps : List (Nat × Mode)) :
    parseSegments h segs = .ok ps ↔
      ps.map (fun p => (p.1, some p.2)) = (segmentChars h segs).map (fun p => (p.1, modeOf p.2)) ∧ ps.Nodup := by
  induction segs generalizing h ps with
  | nil =>
    simp only [parseSegments, segmentChars, List.map_nil, List.map_eq_nil_iff, Except.ok.injEq]
    constructor
    · rintro rfl; simp
    · exact fun hps => hps.1.symm
  | cons seg segs ih =>
    have hpair : Function.Injective fun md : Mode => (h, md) := fun _ _ e => (Prod.mk.inj e).2
    constructor
    · intro hok
      simp only [parseSegments] at hok
      split at hok
      · cases hok
      next mds hseg =>
      split at hok
      · cases hok
      next rest hrest =>
      cases hok
      obtain ⟨hmodes, hnd, -⟩ := (parseSegment_eq_ok _ _ _).1 hseg
      obtain ⟨hmap, hndr⟩ := (ih _ _).1 hrest
      refine ⟨?_, List.Nodup.append (hnd.map hpair) hndr ?_⟩
      · have := congrArg (List.map fun m => (h, m)) hmodes
        simp only [List.map_map, Function.comp_def] at this
        simp [segmentChars, hmap, Function.comp_def, this]
      · rintro p hp hp'
        obtain ⟨md, -, rfl⟩ := List.mem_map.1 hp
        obtain ⟨q, hq, hhart⟩ := exists_char_of_mem hmap hp'
        have := segmentChars_ge _ _ q hq
        dsimp only at hhart
        omega
    · rintro ⟨hmap, hnd⟩
      rw [segmentChars, List.map_append, List.map_map, List.map_eq_append_iff] at hmap
      obtain ⟨front, rest, rfl, hfront, hrest⟩ := hmap
      obtain ⟨mds, rfl, hmodes⟩ := modes_of_map_eq hfront
      obtain ⟨hndf, hndr, -⟩ := List.nodup_append.1 hnd
      have hseg : parseSegment [] seg = .ok mds :=
        (parseSegment_eq_ok _ _ _).2 ⟨hmodes, (List.nodup_map_iff hpair).1 hndf, by simp⟩
      have hsegs : parseSegments (h + 1) segs = .ok rest := (ih _ _).2 ⟨hrest, hndr⟩
      simp [parseSegments, hseg, hsegs]

/-- R262: contexts are numbered in order, and their harts and modes are those of the segments. -/
theorem parseHartConfig_eq_ok (cs : List Char) (contexts : List Context) :
    parseHartConfig cs = .ok contexts ↔
      contexts.map (·.addrid) = List.range contexts.length
        ∧ parseSegments 0 (splitCommas cs) = .ok (contexts.map fun c => (c.hartid, c.mode)) := by
  unfold parseHartConfig
  split
  next ps hps =>
    simp only [hps, Except.ok.injEq]
    constructor
    · rintro rfl
      constructor <;> apply List.ext_getElem <;> simp
    · rintro ⟨hnum, rfl⟩
      apply List.ext_getElem (by simp)
      intro n h1 h2
      have haddr := List.getElem_of_eq hnum (i := n) (by simpa using h2)
      simp only [List.getElem_map, List.getElem_range] at haddr
      simp only [List.getElem_mapIdx, List.getElem_map]
      generalize contexts[n] = c at haddr ⊢
      subst haddr
      rfl
  next e he => simp [he]

/-- Settles O49: characters and modes are matched one by one, so none comes twice among the characters of a hart
exactly when none does among its modes. -/
theorem hartConfigParsing : Obligations.HartConfigParsing := by
  intro cs contexts
  rw [parseHartConfig_eq_ok, parseSegments_eq_ok, ← hartChars_eq_segmentChars, List.map_map]
  generalize hartChars 0 cs = chars
  constructor
  · rintro ⟨hnum, hmap, hnd⟩
    have hmodes : ∀ p ∈ chars, p.2 ∈ ['M', 'S', 'U', 'H'] := by
      intro p hp
      obtain ⟨c, -, hc⟩ := List.mem_map.1 (hmap ▸ List.mem_map_of_mem hp)
      exact (modeOf_ne_none _).1 fun hnone => by simp [hnone] at hc
    refine ⟨hmodes, ?_, hnum, hmap⟩
    apply List.Nodup.of_map (fun p : Nat × Char => (p.1, modeOf p.2))
    rw [← hmap]
    have hinj : Function.Injective fun p : Nat × Mode => (p.1, some p.2) := fun p q e => by simpa [Prod.ext_iff] using e
    simpa [Function.comp_def] using hnd.map hinj
  · rintro ⟨hmodes, hnd, hnum, hmap⟩
    refine ⟨hnum, hmap, ?_⟩
    apply List.Nodup.of_map (fun p : Nat × Mode => (p.1, some p.2))
    rw [List.map_map, Function.comp_def, hmap]
    refine List.Nodup.map_on (fun p hp q hq he => ?_) hnd
    simp only [Prod.mk.injEq] at he
    exact Prod.ext he.1 (eq_of_modeOf_eq ((modeOf_ne_none _).2 (hmodes p hp)) he.2)

/-- R264: a hart's number is below the number of segments. -/
theorem segmentChars_lt (h : Nat) (segs : List (List Char)) : ∀ p ∈ segmentChars h segs, p.1 < h + segs.length := by
  induction segs generalizing h with
  | nil => simp [segmentChars]
  | cons seg segs ih =>
    intro p hp
    rw [segmentChars, List.mem_append, List.mem_map] at hp
    rw [List.length_cons]
    rcases hp with ⟨ch, -, rfl⟩ | hp
    · dsimp only
      omega
    · have := ih _ p hp
      omega

/-- The contexts of an accepted text, when there are no more segments than harts. -/
theorem contextTable_of_parse {cs : List Char} {contexts : List Context} {n : Nat}
    (h : parseHartConfig cs = .ok contexts) (hn : (splitCommas cs).length ≤ n) :
    contexts.map (·.addrid) = List.range contexts.length
      ∧ contexts.Pairwise (fun x y => ¬(x.hartid = y.hartid ∧ x.mode = y.mode))
      ∧ ∀ c ∈ contexts, c.hartid < n := by
  obtain ⟨hnum, hsegs⟩ := (parseHartConfig_eq_ok _ _).1 h
  obtain ⟨hmap, hnd⟩ := (parseSegments_eq_ok _ _ _).1 hsegs
  refine ⟨hnum, ?_, fun c hc => ?_⟩
  · simpa [List.Nodup, List.pairwise_map] using hnd
  · obtain ⟨q, hq, hhart⟩ := exists_char_of_mem hmap (List.mem_map_of_mem hc)
    have hlt := segmentChars_lt _ _ q hq
    omega

/-! ## The bus map -/

/-- R163, R164: the entry of the bus map that an entry of the device map asks for. -/
def busEntry (c : Config) (x : MapEntry) : BusEntry :=
  ⟨x.base.toNat, (deviceSize c x.device).getD 0, x.device, x.guards⟩

/-- R164: what an entry of the device map must meet by itself. -/
def EntryAccepted (c : Config) (x : MapEntry) : Prop :=
  (busEntry c x).size ≠ 0 ∧ (busEntry c x).base + (busEntry c x).size ≤ 2 ^ 64 ∧ x.guards.all (guardExists c) = true

/-- Two entries have no byte in common. -/
def Apart (x y : BusEntry) : Prop := x.base + x.size ≤ y.base ∨ y.base + y.size ≤ x.base

theorem validMap_iff (c : Config) :
    ValidMap c ↔ (∀ x ∈ c.deviceMap, EntryAccepted c x)
      ∧ c.deviceMap.Pairwise fun x y => Apart (busEntry c x) (busEntry c y) := Iff.rfl

/-- The map without overlaps of 10_state.md R35, of a configuration and a list. -/
def MapOk (c : Config) (bus : List BusEntry) : Prop :=
  bus.Pairwise (fun x y => x.base + x.size ≤ y.base)
    ∧ ∀ e ∈ bus, e.size ≠ 0 ∧ e.base + e.size ≤ 2 ^ 64 ∧ deviceSize c e.device = some e.size
        ∧ e.guards.all (guardExists c) = true

theorem busMap_iff (s : State) : s.BusMap ↔ MapOk s.cfg s.bus := Iff.rfl

theorem any_entriesOverlap_eq_false (bus : List BusEntry) (e : BusEntry) :
    bus.any (entriesOverlap e) = false ↔ ∀ x ∈ bus, Apart x e := by
  simp only [List.any_eq_false, Bool.not_eq_true, entriesOverlap_eq_false, Apart]
  exact forall₂_congr fun x _ => by omega

/-- R164: a device is added exactly when its entry is accepted and apart from those of the map. -/
theorem addDevice_entry_eq_ok (c : Config) (bus bus' : List BusEntry) (x : MapEntry) :
    addDevice c bus x.base.toNat x.device x.guards = .ok bus' ↔
      EntryAccepted c x ∧ (∀ b ∈ bus, Apart b (busEntry c x)) ∧ bus' = insertEntry (busEntry c x) bus := by
  rw [addDevice_eq_ok]
  constructor
  · rintro ⟨size, hsize, hguards, hne, hend, hover, rfl⟩
    have hentry : busEntry c x = ⟨x.base.toNat, size, x.device, x.guards⟩ := by simp [busEntry, hsize]
    rw [EntryAccepted, hentry]
    exact ⟨⟨hne, hend, hguards⟩, (any_entriesOverlap_eq_false _ _).1 hover, rfl⟩
  · rintro ⟨⟨hne, hend, hguards⟩, hapart, rfl⟩
    obtain ⟨size, hsize⟩ : ∃ size, deviceSize c x.device = some size := by
      cases hd : deviceSize c x.device with
      | none => simp [busEntry, hd] at hne
      | some size => exact ⟨size, rfl⟩
    have hentry : busEntry c x = ⟨x.base.toNat, size, x.device, x.guards⟩ := by simp [busEntry, hsize]
    rw [hentry] at hne hend hapart ⊢
    exact ⟨size, hsize, hguards, hne, hend, (any_entriesOverlap_eq_false _ _).2 hapart, rfl⟩

theorem addDevice_mapOk {c : Config} {bus bus' : List BusEntry} {base : Nat} {d : Device} {gs : List Guard}
    (hok : MapOk c bus) (h : addDevice c bus base d gs = .ok bus') : MapOk c bus' := by
  obtain ⟨size, hsize, hguards, hne, hend, hover, rfl⟩ := addDevice_eq_ok.1 h
  obtain ⟨hord, hall⟩ := hok
  refine ⟨insertEntry_pairwise _ _ hord hne (fun x hx => (hall x hx).1) hover, fun e he => ?_⟩
  rcases (mem_insertEntry _ _ _).1 he with rfl | he
  · exact ⟨hne, hend, hsize, hguards⟩
  · exact hall e he

/-- R361: a device map is accepted exactly when each of its entries is, and all are apart from each other and from the
map before. -/
theorem exists_addDevices_eq_ok (c : Config) (bus : List BusEntry) (es : List MapEntry) :
    (∃ bus', addDevices c bus es = .ok bus') ↔
      (∀ x ∈ es, EntryAccepted c x) ∧ es.Pairwise (fun x y => Apart (busEntry c x) (busEntry c y))
        ∧ ∀ x ∈ es, ∀ b ∈ bus, Apart b (busEntry c x) := by
  induction es generalizing bus with
  | nil => simp [addDevices]
  | cons e es ih =>
    have hstep : (∃ bus', addDevices c bus (e :: es) = .ok bus') ↔
        EntryAccepted c e ∧ (∀ b ∈ bus, Apart b (busEntry c e))
          ∧ ∃ bus', addDevices c (insertEntry (busEntry c e) bus) es = .ok bus' := by
      simp only [addDevices]
      split
      next mid hmid =>
        obtain ⟨hacc, hapart, rfl⟩ := (addDevice_entry_eq_ok _ _ _ _).1 hmid
        simp only [hacc, true_and]
        exact ⟨fun h => ⟨hapart, h⟩, And.right⟩
      next x hx =>
        simp only [reduceCtorEq, exists_false, false_iff]
        rintro ⟨hacc, hapart, -⟩
        rw [(addDevice_entry_eq_ok _ _ _ _).2 ⟨hacc, hapart, rfl⟩] at hx
        cases hx
    rw [hstep, ih]
    simp only [mem_insertEntry, List.forall_mem_cons, List.pairwise_cons, forall_eq_or_imp]
    constructor
    · rintro ⟨hacc, hapart, haccs, hpair, hcross⟩
      exact ⟨⟨hacc, haccs⟩, ⟨fun x hx => (hcross x hx).1, hpair⟩, hapart, fun x hx => (hcross x hx).2⟩
    · rintro ⟨⟨hacc, haccs⟩, ⟨hfirst, hpair⟩, hapart, hcross⟩
      exact ⟨hacc, hapart, haccs, hpair, fun x hx => ⟨hfirst x hx, hcross x hx⟩⟩

/-- What every single insertion keeps or does, all of them do: the map stays one without overlaps, and has the entries
of both. -/
theorem addDevices_eq_ok {c : Config} {bus bus' : List BusEntry} {es : List MapEntry} (hok : MapOk c bus)
    (h : addDevices c bus es = .ok bus') :
    MapOk c bus' ∧ ∀ b, b ∈ bus' ↔ b ∈ bus ∨ ∃ x ∈ es, b = busEntry c x := by
  induction es generalizing bus with
  | nil =>
    cases h
    exact ⟨hok, by simp⟩
  | cons e es ih =>
    simp only [addDevices] at h
    split at h
    next mid hmid =>
      obtain ⟨hok', hmem⟩ := ih (addDevice_mapOk hok hmid) h
      obtain ⟨-, -, rfl⟩ := (addDevice_entry_eq_ok _ _ _ _).1 hmid
      exact ⟨hok', fun b => by simp only [hmem, mem_insertEntry, List.mem_cons, exists_eq_or_imp]; tauto⟩
    next => cases h

theorem mapOk_nil (c : Config) : MapOk c [] := by simp [MapOk]

/-! ## Construction -/

/-- R360: what construction checks, and the state it gives. -/
theorem construct_eq_ok {c : Config} {s t : State} :
    construct c s = .ok t ↔ ∃ contexts bus, parseHartConfig c.hartConfig = .ok contexts
      ∧ parameterError c contexts.length = none ∧ addDevices c [] c.deviceMap = .ok bus
      ∧ t = initialState c bus contexts s := by
  unfold construct
  constructor
  · intro h
    split at h
    · cases h
    next contexts hctx =>
    split at h
    · cases h
    next hpar =>
    split at h
    · cases h
    next bus hbus => exact ⟨contexts, bus, hctx, hpar, hbus, by cases h; rfl⟩
  · rintro ⟨contexts, bus, hctx, hpar, hbus, rfl⟩
    simp [hctx, hpar, hbus]

/-- R360: before construction SYS.CONSTRUCT ends in the constructed state. -/
theorem exec_sysConstruct_ok {c : Config} {s t : State} (hp : s.phase = .unbuilt) (h : construct c s = .ok t) :
    exec (.sysConstruct c) s = .next t := by
  simp only [exec, execSysConstruct, hp, h]

/-- R322: before construction SYS.CONSTRUCT ends the process on a configuration error. -/
theorem exec_sysConstruct_error {c : Config} {s : State} {x : ConfigError} (hp : s.phase = .unbuilt)
    (h : construct c s = .error x) : exec (.sysConstruct c) s = .fault (.configuration x) := by
  simp only [exec, execSysConstruct, hp, h]

/-- R164: while devices are added BUS.ADD_DEVICE changes the map. -/
theorem exec_busAddDevice_ok {s : State} {base : Word64} {d : Device} {gs : List Guard} {bus : List BusEntry}
    (hp : s.phase = .configuring) (h : addDevice s.cfg s.bus base.toNat d gs = .ok bus) :
    exec (.busAddDevice base d gs) s = .next ((s.setBus bus).setOut .none) := by
  simp only [exec, execBusAddDevice, hp, h]

/-- R322: while devices are added BUS.ADD_DEVICE ends the process on a configuration error. -/
theorem exec_busAddDevice_error {s : State} {base : Word64} {d : Device} {gs : List Guard} {x : ConfigError}
    (hp : s.phase = .configuring) (h : addDevice s.cfg s.bus base.toNat d gs = .error x) :
    exec (.busAddDevice base d gs) s = .fault (.configuration x) := by
  simp only [exec, execBusAddDevice, hp, h]

theorem getD_replicate_default {α : Type} (n i : Nat) (x : α) : (List.replicate n x).getD i x = x := by
  rw [List.getD_eq_getElem?_getD, List.getElem?_getD_replicate_default_eq]

theorem bitAt_replicate_zero (n i : Nat) : bitAt (List.replicate n 0#32) i = false := by
  rw [bitAt, getD_replicate_default, BitVec.getLsbD_zero]

/-- R49: the arrays have the sizes that the parameters give them. -/
theorem initialState_shape {c : Config} {contexts : List Context} (hpar : parameterError c contexts.length = none)
    (bus : List BusEntry) (s : State) : (initialState c bus contexts s).Shape := by
  obtain ⟨-, -, ⟨hcmp, hmip, hwid⟩, -⟩ := (parameterError_eq_none _ _).1 hpar
  simp [State.Shape, initialState, initialPlic, hcmp, hmip, hwid, Function.comp_def]

/-- Construction gives a state that meets the invariant. -/
theorem construct_inv {c : Config} {s t : State} (h : construct c s = .ok t) : t.Inv := by
  obtain ⟨contexts, bus, hctx, hpar, hbus, rfl⟩ := construct_eq_ok.1 h
  obtain ⟨-, -, -, -, -, hsegs, -, -, hworlds, -⟩ := (parameterError_eq_none _ _).1 hpar
  refine ⟨by simp [initialState], hpar, contextTable_of_parse hctx hsegs, initialState_shape hpar bus s, ?_, ?_, ?_,
    (addDevices_eq_ok (mapOk_nil c) hbus).1, List.Pairwise.nil, by simp [initialState]⟩
  · intro i _ hbit
    simp [initialState, initialPlic, bitAt_replicate_zero] at hbit
  · simp [State.Thresholds, initialState, initialPlic]
  · intro x hx
    obtain ⟨w, hw, rfl⟩ := List.mem_map.1 hx
    exact (Nat.mod_le _ _).trans (hworlds w hw)

/-- Settles O50: a valid map is accepted, and what is left is the table of R49, entry by entry. -/
theorem constructGivesTheResetState : Obligations.ConstructGivesTheResetState := by
  intro c s contexts hp hctx hpar hmap
  obtain ⟨haccepted, hapart⟩ := (validMap_iff c).1 hmap
  obtain ⟨bus, hbus⟩ := (exists_addDevices_eq_ok c [] c.deviceMap).2 ⟨haccepted, hapart, by simp⟩
  obtain ⟨-, hmem⟩ := addDevices_eq_ok (mapOk_nil c) hbus
  have hok : construct c s = .ok (initialState c bus contexts s) :=
    construct_eq_ok.2 ⟨contexts, bus, hctx, hpar, hbus, rfl⟩
  refine ⟨initialState c bus contexts s, exec_sysConstruct_ok hp hok, rfl, rfl, rfl,
    fun e => (hmem e).trans (or_iff_right (by simp)), rfl, rfl, rfl, initialState_shape hpar bus s, fun i => ?_,
    fun a w => ?_, fun m w hw => ?_, fun f p hf => ?_, fun p k => ?_, rfl, rfl, rfl⟩
  · exact ⟨getD_replicate_default _ _ _, getD_replicate_default _ _ _, bitAt_replicate_zero _ _,
      bitAt_replicate_zero _ _⟩
  · exact ⟨getD_replicate_default _ _ _, getD_replicate_default _ _ _⟩
  · simp [initialState, hw]
  · simp [initialState, hf, initialMask, Nat.shiftLeft_eq]
  · simp only [State.block, initialState, List.getD_eq_getElem?_getD (l := List.map _ _), List.getElem?_map]
    cases c.pmpBlocks[p]? with
    | none => rfl
    | some n => exact getD_replicate_default _ _ _

/-- Settles O51: an accepted construction would have met the opposite of each. -/
theorem constructRejects : Obligations.ConstructRejects := by
  intro c s hp hbad
  cases hc : construct c s with
  | error e => exact ⟨e, exec_sysConstruct_error hp hc⟩
  | ok t =>
    exfalso
    obtain ⟨contexts, bus, hctx, hpar, hbus, -⟩ := construct_eq_ok.1 hc
    obtain ⟨hharts, hfreq, ⟨hcmp, hmip, hwid⟩, hsrc, hprio, hsegs, hlayout, htrusted, hmarkers, hfilters, hpmps⟩ :=
      (parameterError_eq_none _ _).1 hpar
    obtain ⟨hmodes, hnd, -, hmap⟩ := (hartConfigParsing _ _).1 hctx
    obtain ⟨haccepted, hapart, -⟩ := (exists_addDevices_eq_ok _ _ _).1 ⟨bus, hbus⟩
    have hvalid : ValidMap c := (validMap_iff c).2 ⟨haccepted, hapart⟩
    have hlen : contexts.length = (hartChars 0 c.hartConfig).length := by simpa using congrArg List.length hmap
    have hbelow : ∀ p ∈ hartChars 0 c.hartConfig, p.1 < c.nHarts := by
      intro p hp
      have := segmentChars_lt _ _ p (hartChars_eq_segmentChars _ _ ▸ hp)
      omega
    rw [splitCommas_length] at hsegs
    rw [hlen] at hlayout
    rcases hbad with h | h | h | h | h | h | h | ⟨p, hp, h⟩ | h | ⟨p, hp, h⟩ | h | h | h | ⟨w, hw, h⟩ | ⟨f, hf, h⟩
      | ⟨n, hn, h⟩ | h
    · exact h hharts
    · exact h hcmp
    · exact h hmip
    · exact h hwid
    · exact hfreq h
    · exact hsrc h
    · omega
    · exact h (hmodes p hp)
    · exact h hnd
    · exact absurd (hbelow p hp) (Nat.not_lt.2 h)
    · omega
    · exact h hlayout
    · exact h htrusted
    · exact absurd (hmarkers w hw) (Nat.not_le.2 h)
    · exact absurd (hfilters f hf) (Nat.not_le.2 h)
    · exact absurd (hpmps n hn) (Nat.not_le.2 h)
    · exact h hvalid

/-- Settles O52: R164's checks are those of the statement, and the insertion keeps the order. The name is not the bare
`addDevice`, which is the model's own definition. -/
theorem addDevice_spec : Obligations.AddDevice := by
  intro s base d gs size hinv hp hsize hguards
  obtain ⟨-, -, -, -, -, -, -, hmap, -⟩ := hinv
  refine ⟨fun hne hend hapart => ?_, fun hbad => ?_⟩
  · have hok : addDevice s.cfg s.bus base.toNat d gs = .ok (insertEntry ⟨base.toNat, size, d, gs⟩ s.bus) :=
      addDevice_eq_ok.2 ⟨size, hsize, hguards, hne, hend, (any_entriesOverlap_eq_false _ _).2 hapart, rfl⟩
    exact ⟨insertEntry ⟨base.toNat, size, d, gs⟩ s.bus, exec_busAddDevice_ok hp hok, (addDevice_mapOk hmap hok).1,
      fun e => mem_insertEntry _ _ _⟩
  · cases ha : addDevice s.cfg s.bus base.toNat d gs with
    | error x => exact ⟨x, exec_busAddDevice_error hp ha⟩
    | ok bus =>
      exfalso
      obtain ⟨size', hsize', -, hne, hend, hover, -⟩ := addDevice_eq_ok.1 ha
      cases hsize.symm.trans hsize'
      rcases hbad with h | h | ⟨e, he, h⟩
      · exact hne h
      · omega
      · have : e.base + e.size ≤ base.toNat ∨ base.toNat + size ≤ e.base :=
          (any_entriesOverlap_eq_false _ _).1 hover e he
        omega

/-- Settles O53: both configuration rows look at the phase first. -/
theorem constructionIsOnce : Obligations.ConstructionIsOnce := by
  intro s hs
  refine ⟨fun c => ?_, fun hr base d gs => ?_⟩
  · simp only [exec, execSysConstruct]
    split
    · contradiction
    · rfl
    · rfl
  · simp only [exec, execBusAddDevice, hr]

/-- Settles O56: the model runs the construction. -/
theorem resetIsConstruction : Obligations.ResetIsConstruction := by
  unfold Obligations.ResetIsConstruction
  rfl

/-- Settles O57: the reset state is a constructed one. -/
theorem resetMeetsInv : Obligations.ResetMeetsInv := by
  have hreset := resetIsConstruction
  unfold Obligations.ResetIsConstruction at hreset
  cases hc : construct Config.standard State.unbuilt with
  | ok t =>
    rw [exec_sysConstruct_ok rfl hc] at hreset
    cases hreset
    exact construct_inv hc
  | error e =>
    rw [exec_sysConstruct_error rfl hc] at hreset
    cases hreset

end Sys2Proof.Machine
end

section
/-! Proofs about what every step keeps (10_state.md section 9): each effect of an instruction (`exec_effect`) leaves the
parts of the invariant, and what a step does is an effect at the state without its record. -/

namespace Sys2Proof.Machine

variable {i : Instr} {s t : State}

/-! ## Parts of the invariant, by name -/

theorem State.Inv.phase_ne (hs : s.Inv) : s.phase ≠ .unbuilt := by
  obtain ⟨hphase, -⟩ := hs
  exact hphase

theorem State.Inv.mip_length (hs : s.Inv) : s.mip.length = s.cfg.nHarts := by
  obtain ⟨-, hmip, -⟩ := hs.shape
  exact hmip

theorem State.Inv.pmp_sizes (hs : s.Inv) : s.pmps.map List.length = s.cfg.pmpBlocks := by
  obtain ⟨-, -, -, -, -, -, -, -, -, -, hpmps⟩ := hs.shape
  exact hpmps

theorem State.Inv.bitfield_lengths (hs : s.Inv) :
    s.plic.pending.length = s.cfg.words ∧ s.plic.claimed.length = s.cfg.words := by
  obtain ⟨-, -, -, -, -, hpending, hclaimed, -⟩ := hs.shape
  exact ⟨hpending, hclaimed⟩

theorem State.Inv.parameters (hs : s.Inv) : s.Parameters := by
  obtain ⟨-, hpar, -⟩ := hs
  exact hpar

theorem State.Inv.layout (hs : s.Inv) : plicLayoutOk s.cfg s.contexts.length = true := by
  obtain ⟨-, -, -, -, -, -, hlayout, -⟩ := (parameterError_eq_none _ _).1 hs.parameters
  exact hlayout

theorem State.Inv.numPriorities_lt (hs : s.Inv) : s.cfg.numPriorities < 2 ^ 32 := by
  obtain ⟨-, -, -, -, hnum, -⟩ := (parameterError_eq_none _ _).1 hs.parameters
  exact hnum

theorem State.Inv.nHarts_le (hs : s.Inv) : s.cfg.nHarts ≤ 4095 := (nHarts_bounds hs.parameters).2

theorem State.Inv.plicBits (hs : s.Inv) : s.PlicBits := by
  obtain ⟨-, -, -, -, hbits, -⟩ := hs
  exact hbits

theorem State.Inv.thresholds (hs : s.Inv) : s.Thresholds := by
  obtain ⟨-, -, -, -, -, hthresh, -⟩ := hs
  exact hthresh

theorem State.Inv.contextTable (hs : s.Inv) : s.ContextTable := by
  obtain ⟨-, -, hctx, -⟩ := hs
  exact hctx

theorem State.Inv.busMap (hs : s.Inv) : s.BusMap := by
  obtain ⟨-, -, -, -, -, -, -, hmap, -⟩ := hs
  exact hmap

theorem State.Inv.memory (hs : s.Inv) : Memory.wf s.mem := by
  obtain ⟨-, -, -, -, -, -, -, -, hmem⟩ := hs
  exact hmem

/-! ## What the effects of a constructed block keep -/

/-- R51: the parameters, the contexts and the phase. -/
theorem Effect.fixed (h : Effect i s t) (hp : s.phase ≠ .unbuilt) :
    t.cfg = s.cfg ∧ t.contexts = s.contexts ∧ t.phase = s.phase := by
  cases h
  case constructed hu _ => exact absurd hu hp
  all_goals simp

/-- Replacing a block of a PMP keeps every PMP's number of blocks. -/
theorem map_length_set (pmps : List (List PmpBlock)) (p k : Nat) (x : PmpBlock) :
    (pmps.set p ((pmps.getD p []).set k x)).map List.length = pmps.map List.length := by
  apply List.ext_getElem?
  intro q
  rw [List.getElem?_map, List.getElem?_map, List.getElem?_set]
  split
  · next hpq =>
    subst hpq
    by_cases hp : p < pmps.length
    · simp [hp]
    · simp [hp]
  · rfl

/-- The sizes of the arrays. -/
theorem Effect.shape (h : Effect i s t) (hp : s.phase ≠ .unbuilt) (hs : s.Shape) : t.Shape := by
  obtain ⟨hcmp, hmip, hmarkers, hprio, hlevel, hpend, hclaimed, henable, hthresh, hmask, hpmps⟩ := hs
  cases h
  case constructed hu _ => exact absurd hu hp
  case block p k x _ _ _ _ _ _ =>
    refine ⟨hcmp, hmip, hmarkers, hprio, hlevel, hpend, hclaimed, henable, hthresh, hmask, ?_⟩
    exact (map_length_set s.pmps p k x).trans hpmps
  case level => unfold State.Shape; split <;> simp [*]
  all_goals simp [State.Shape, *]

/-- An id of the machine has a bit in the bitfields. -/
theorem word_lt_words {n : Nat} {c : Config} (h : n ≤ c.numSources) : n / 32 < c.words := by
  unfold Config.words
  omega

theorem best_le (s : State) (a : Nat) : best s a ≤ s.cfg.numSources := by
  rcases bestIsGreatestEligible s a with ⟨h0, -⟩ | ⟨he, -⟩
  · omega
  · exact he.id_le

/-- R39: no pending or claimed bit outside the ids. -/
theorem Effect.plicBits (h : Effect i s t) (hp : s.phase ≠ .unbuilt) (hs : s.Shape) (hb : s.PlicBits) :
    t.PlicBits := by
  obtain ⟨-, -, -, -, -, hpend, hclaimed, -⟩ := hs
  cases h
  case constructed hu _ => exact absurd hu hp
  case claim a h0 x hx =>
    intro j hj hbit
    have hle := best_le s a
    simp only [State.setOut_plic, update_plic, State.setPlic_plic, bitAt_clearBit,
      bitAt_setBit _ _ _ (hclaimed.symm ▸ word_lt_words hle)] at hbit
    by_cases hj' : best s a = j
    · subst hj'
      exact ⟨Nat.pos_of_ne_zero h0, hle⟩
    · exact hb j hj (by simpa [hj'] using hbit)
  case complete b _ _ x hx =>
    intro j hj hbit
    simp only [State.setOut_plic, update_plic, State.setPlic_plic, bitAt_clearBit, Bool.and_eq_true] at hbit
    exact hb j hj (hbit.imp_right And.right)
  case level irq l hirq hi =>
    intro j hj hbit
    simp only [State.setOut_plic, update_plic, State.setPlic_plic] at hbit
    split at hbit
    · rw [bitAt_setBit _ _ _ (hpend.symm ▸ word_lt_words hirq.2)] at hbit
      by_cases hj' : irq = j
      · exact hj' ▸ hirq
      · exact hb j hj (by simpa [hj'] using hbit)
    · exact hb j hj hbit
  all_goals simpa [State.PlicBits] using hb

/-- R39: no threshold above the number of priorities. -/
theorem Effect.thresholds (h : Effect i s t) (hp : s.phase ≠ .unbuilt) (ht : s.Thresholds) : t.Thresholds := by
  cases h
  case constructed hu _ => exact absurd hu hp
  case threshold a v hv x hx =>
    intro n hn
    simp only [State.setOut_plic, update_plic, State.setPlic_plic, List.mem_map] at hn
    obtain ⟨w, hw, rfl⟩ := hn
    rcases List.mem_or_eq_of_mem_set hw with hw | rfl
    · exact ht _ (List.mem_map_of_mem hw)
    · exact hv
  all_goals simpa [State.Thresholds] using ht

theorem State.Worlds.marker_le (hw : s.Worlds) (m : Nat) : (s.marker m).wid.toNat ≤ s.cfg.widTrusted := by
  by_cases hm : m < s.markers.length
  · simpa [State.marker, hm] using hw _ (List.getElem_mem hm)
  · simp [State.marker, hm]

/-- R43: no marker's world above the trusted one. -/
theorem Effect.worlds (h : Effect i s t) (hp : s.phase ≠ .unbuilt) (hw : s.Worlds) : t.Worlds := by
  cases h
  case constructed hu _ => exact absurd hu hp
  case marker m x _ _ _ _ _ _ hwid =>
    intro y hy
    rcases List.mem_or_eq_of_mem_set hy with hy | rfl
    · exact hw y hy
    · rcases hwid with hwid | hwid
      · exact hwid ▸ hw.marker_le m
      · exact hwid
  all_goals simpa [State.Worlds] using hw

/-- R35: the map without overlaps. -/
theorem Effect.busMap (h : Effect i s t) (hp : s.phase ≠ .unbuilt) (hm : s.BusMap) : t.BusMap := by
  cases h
  case constructed hu _ => exact absurd hu hp
  case added hadd _ => exact addDevice_mapOk hm hadd
  all_goals simpa [busMap_iff] using hm

/-- Log entry 6: the canonical form of memory. -/
theorem Effect.memory (h : Effect i s t) (hp : s.phase ≠ .unbuilt) (hm : Memory.wf s.mem) : Memory.wf t.mem := by
  cases h
  case constructed hu _ => exact absurd hu hp
  case ram => exact Memory.writeBytes_wf _ _ _ hm
  all_goals simpa using hm

theorem Effect.inv (h : Effect i s t) (hs : s.Inv) : t.Inv := by
  obtain ⟨hp, hpar, hctx, hshape, hbits, hthresh, hworlds, hmap, hmem⟩ := hs
  obtain ⟨hcfg, hcontexts, hphase⟩ := h.fixed hp
  refine ⟨hphase ▸ hp, ?_, ?_, h.shape hp hshape, h.plicBits hp hshape hbits, h.thresholds hp hthresh,
    h.worlds hp hworlds, h.busMap hp hmap, h.memory hp hmem⟩
  · rwa [State.Parameters, hcfg, hcontexts]
  · rwa [State.ContextTable, hcfg, hcontexts]

/-- Every instruction of a constructed block keeps the invariant. -/
theorem exec_inv (hs : s.Inv) (e : exec i s = .next t) : t.Inv := (exec_effect e).inv hs

/-! ## Steps -/

/-- Taking the record changes the queue, and ends construction when it is no configuration. -/
theorem take_eq (s : State) (rest : List Bytes) (c : Bool) :
    s.take rest c = { s with queue := rest, phase := if c then s.phase else .running } := by
  cases c <;> rfl

theorem take_phase_ne_unbuilt (hp : s.phase ≠ .unbuilt) (rest : List Bytes) (c : Bool) :
    (s.take rest c).phase ≠ .unbuilt := by
  cases c
  · exact Phase.noConfusion
  · exact hp

theorem take_inv (hs : s.Inv) (rest : List Bytes) (c : Bool) : (s.take rest c).Inv := by
  obtain ⟨hp, hothers⟩ := hs
  refine ⟨take_phase_ne_unbuilt hp rest c, ?_⟩
  rw [take_eq]
  exact hothers

/-- A step does nothing, or has an effect of an instruction at the state without its record. A hart operation only
leaves an output, which is an effect of every instruction. -/
theorem step_effect (e : step s = .next t) : t = s ∨ ∃ rest c i, Effect i (s.take rest c) t := by
  rcases step_next e with ⟨-, rfl⟩ | ⟨bytes, rest, i, -, -, -, he⟩ | ⟨-, rest, o, rfl⟩
  · exact .inl rfl
  · exact .inr ⟨rest, _, i, exec_effect he⟩
  · exact .inr ⟨rest, false, .clintTick 0#64, .same o⟩

/-- Before construction a step does nothing but construct. -/
theorem step_unbuilt (hp : s.phase = .unbuilt) (e : step s = .next t) :
    t = s ∨ ∃ c rest, construct c (s.take rest true) = .ok t := by
  rcases step_next e with ⟨-, rfl⟩ | ⟨bytes, rest, i, -, -, hconf, he⟩ | ⟨hne, -⟩
  · exact .inl rfl
  · right
    have hi : isConfiguration i = true := by
      by_contra h
      exact hconf (by simpa using h) hp
    rw [hi] at he
    have hp' : (s.take rest true).phase = .unbuilt := hp
    cases i with
    | sysConstruct c =>
      cases hc : construct c (s.take rest true) with
      | ok u =>
        rw [exec_sysConstruct_ok hp' hc] at he
        cases he
        exact ⟨c, rest, hc⟩
      | error x => cases (exec_sysConstruct_error hp' hc).symm.trans he
    | busAddDevice base d gs => simp [exec, execBusAddDevice, hp'] at he
    | _ => cases hi
  · exact absurd hp hne

/-- Settles O58: an unbuilt block is constructed or stays, and every effect keeps the invariant. -/
theorem stepKeepsInv : Obligations.StepKeepsInv := by
  rintro s t (hp | hs) e
  · rcases step_unbuilt hp e with rfl | ⟨c, rest, hc⟩
    · exact .inl ⟨hp, rfl⟩
    · exact .inr (construct_inv hc)
  · rcases step_effect e with rfl | ⟨rest, c, i, h⟩
    · exact .inr hs
    · exact .inr (h.inv (take_inv hs rest c))

/-! ## MTIP -/

/-- R181: right after the recomputation MTIP is right. -/
theorem recomputeMtip_mtipRight {u : State} (hl : u.mip.length = u.cfg.nHarts) (o : Output) :
    ((recomputeMtip u).setOut o).MtipRight :=
  fun h hn => recomputeMtip_mtip u h hn hl

/-- R234: Update leaves MTIP, the time and the compare values. -/
theorem update_mtipRight {u : State} (hu : u.MtipRight) (o : Output) : ((update u).setOut o).MtipRight :=
  fun h hn => (update_mtip u h).trans (hu h hn)

/-- An effect recomputes MTIP after its writes of time and compare values, or leaves all three. -/
theorem Effect.mtipRight (h : Effect i s t) (hs : s.Inv) (hr : s.MtipRight) : t.MtipRight := by
  have hl : s.mip.length = s.cfg.nHarts := hs.mip_length
  cases h
  case constructed hu _ => exact absurd hu hs.phase_ne
  case clint | msip | mtimecmp | mtime | tick =>
    refine recomputeMtip_mtipRight ?_ _
    simpa using hl
  case priority | enable | threshold | claim | idleClaim | complete | idleComplete | level =>
    refine update_mtipRight ?_ _
    exact hr
  case same | marker | mask | block | ram | external | added => exact hr

/-- Settles O16: taking the record leaves MTIP right, and so does every effect. -/
theorem mtipStaysRight : Obligations.MtipStaysRight := by
  intro s t hs hr e
  rcases step_effect e with rfl | ⟨rest, c, i, h⟩
  · exact hr
  · refine h.mtipRight (take_inv hs rest c) ?_
    rw [take_eq]
    exact hr

/-! ## Locks -/

theorem marker_set_of_ne {ms : List Marker} {m n : Nat} (h : m ≠ n) (x d : Marker) :
    (ms.set m x).getD n d = ms.getD n d := by
  simp [List.getD_eq_getElem?_getD, List.getElem?_set_ne h]

theorem block_setBlock_of_ne {p q k j : Nat} (h : ¬(p = q ∧ k = j)) (x : PmpBlock) :
    (s.setBlock p k x).block q j = s.block q j := by
  simp only [State.block, State.setBlock_eq, State.setPmps_pmps, List.getD_eq_getElem?_getD]
  by_cases hp : p = q
  · subst hp
    have hk : k ≠ j := fun hk => h ⟨rfl, hk⟩
    by_cases hl : p < s.pmps.length
    · simp [hl, List.getElem?_set_ne hk]
    · simp [hl]
  · rw [List.getElem?_set_ne hp]

/-- A marker is written only when it is unlocked. -/
theorem Effect.marker_locked (h : Effect i s t) (hp : s.phase ≠ .unbuilt) {m : Nat} (hm : (s.marker m).lock ≠ 0#32) :
    t.marker m = s.marker m := by
  cases h
  case constructed hu _ => exact absurd hu hp
  case marker n x _ _ _ _ _ hlock _ =>
    refine marker_set_of_ne (fun hn => ?_) _ _
    exact hm (hn ▸ hlock)
  all_goals simp [State.marker]

/-- A PMP block is written only when it is unlocked. -/
theorem Effect.block_locked (h : Effect i s t) (hp : s.phase ≠ .unbuilt) {p k : Nat}
    (hk : (s.block p k).lock ≠ 0#32) : t.block p k = s.block p k := by
  cases h
  case constructed hu _ => exact absurd hu hp
  case block q j x _ _ _ _ _ hlock =>
    refine block_setBlock_of_ne (fun hn => ?_) x
    exact hk (hn.1 ▸ hn.2 ▸ hlock)
  all_goals simp [State.block]

/-- Settles O39: taking the record changes no lock, and no effect writes what is locked. -/
theorem locksAreForever : Obligations.LocksAreForever := by
  intro s t hs e
  rcases step_effect e with rfl | ⟨rest, c, i, h⟩
  · exact ⟨fun _ _ => rfl, fun _ _ _ => rfl⟩
  · have hp := take_phase_ne_unbuilt hs.phase_ne rest c
    have hmarker (m : Nat) : (s.take rest c).marker m = s.marker m := by rw [take_eq]; rfl
    have hblock (p k : Nat) : (s.take rest c).block p k = s.block p k := by rw [take_eq]; rfl
    refine ⟨fun m hm => ?_, fun p k hk => ?_⟩
    · rw [h.marker_locked hp (by rwa [hmarker]), hmarker]
    · rw [h.block_locked hp (by rwa [hblock]), hblock]

/-! ## The configuration -/

/-- R164: the map changes only by an added device, while devices are being added. -/
theorem Effect.bus (h : Effect i s t) (hp : s.phase ≠ .unbuilt) :
    t.bus = s.bus ∨ (s.phase = .configuring ∧ (∀ e ∈ s.bus, e ∈ t.bus) ∧ ∃ base d gs, i = .busAddDevice base d gs) := by
  cases h
  case constructed hu _ => exact absurd hu hp
  case added base d gs bus hc hadd hi =>
    obtain ⟨size, -, -, -, -, -, rfl⟩ := addDevice_eq_ok.1 hadd
    exact .inr ⟨hc, fun e he => (mem_insertEntry _ _ _).2 (.inr he), base, d, gs, hi⟩
  all_goals exact .inl (by simp)

/-- Settles O59: a step is idle, or its instruction's effect leaves the configuration but for an added device, or it
leaves an output alone. -/
theorem configurationIsFixed : Obligations.ConfigurationIsFixed := by
  intro s t hs e
  rcases step_next e with ⟨-, rfl⟩ | ⟨bytes, rest, i, hq, hd, -, he⟩ | ⟨-, rest, o, rfl⟩
  · simp
  · have h := exec_effect he
    have hp := take_phase_ne_unbuilt hs.phase_ne rest (isConfiguration i)
    obtain ⟨hcfg, hctx, hphase⟩ := h.fixed hp
    have hbus := h.bus hp
    have hinv := h.inv (take_inv hs rest _)
    simp only [take_eq] at hcfg hctx hphase hbus
    refine ⟨hcfg, hctx, by rw [hinv.pmp_sizes, hs.pmp_sizes, hcfg], fun hr => ?_, fun x hx => ?_, fun hne => ?_⟩
    · rw [hr, ite_self] at hphase hbus
      exact ⟨hphase, hbus.resolve_right (by simp)⟩
    · rcases hbus with hbus | ⟨-, hsub, -⟩
      · exact hbus ▸ hx
      · exact hsub x hx
    · obtain ⟨hc, -, base, d, gs, rfl⟩ := hbus.resolve_left hne
      exact ⟨by simpa [isConfiguration] using hc, bytes, rest, base, d, gs, hq, hd⟩
  · simp [take_eq]

end Sys2Proof.Machine
end

section
/-! Proofs about the bus and the devices' ports (40_bus.md, 30_encoding.md section 2, 60_exceptions.md): where an access
goes, what it answers, and what a refused one leaves. -/

namespace Sys2Proof.Machine

variable {s t : State} {i : Instr} {e : BusEntry} {h addr len : Nat}

/-! ## Ports (log entry 11) -/

/-- Settles O8: either row is the access at the port. -/
theorem rowsDecodeAtThePort : Obligations.RowsDecodeAtThePort := by
  intro i j s hi hij
  obtain ⟨⟨d, a⟩, hp⟩ := Option.ne_none_iff_exists'.1 hi
  rw [exec_eq_port hp, exec_eq_port (hij ▸ hp)]

/-- A port whose device refuses a load leaves the fault alone, whether the bus would forward the load or not. -/
theorem exec_refusedLoad {d : Device} {r : LoadReq} (hi : portAccess i = some (d, .load r))
    (hserve : deviceLoad ⟨0, 0, d, []⟩ r s = refuse s) :
    exec i s = .next { s with out := refusedOut s d (.load r) } := by
  rw [exec_eq_port hi, atPort, portLoad, hserve, ite_self]
  rfl

/-- As `exec_refusedLoad`, for a store. -/
theorem exec_refusedStore {d : Device} {r : StoreReq} (hi : portAccess i = some (d, .store r))
    (hserve : deviceStore ⟨0, 0, d, []⟩ r s = refuse s) :
    exec i s = .next { s with out := refusedOut s d (.store r) } := by
  rw [exec_eq_port hi, atPort, portStore, hserve, ite_self]
  rfl

theorem finishLoad_completes (k : LoadKind) (a : Word64) (x : Served) : Completes (finishLoad h k a x) :=
  ⟨_, finishLoad_eq h k a x⟩

theorem finishStore_completes (a : Word64) (x : Served) : Completes (finishStore h a x) := ⟨_, finishStore_eq h a x⟩

theorem atPort_completes (d : Device) (a : Access) (s : State) : Completes (atPort d a s) := by
  cases a
  · exact finishLoad_completes _ _ _
  · exact finishStore_completes _ _

/-- Settles O60: an access ends in its answer or its fault, on the bus and at a port; a gate, a tick and a set_pending
always end. -/
theorem everyTransactionCompletes : Obligations.EveryTransactionCompletes := by
  intro i s hi
  cases hp : portAccess i with
  | some p => exact exec_eq_port hp s ▸ atPort_completes p.1 p.2 s
  | none =>
    cases i with
    | busLoad => exact finishLoad_completes _ _ _
    | busStore => exact finishStore_completes _ _
    | busAddDevice | sysConstruct => cases hi
    | clintTick | wgfGate | wgpGate => exact ⟨_, rfl⟩
    | plicSetPending irq l =>
      rw [exec, execPlicSetPending]
      split
      · exact ⟨_, rfl⟩
      · exact ⟨_, rfl⟩
    | _ => cases hp

/-! ## The route of an access (R161, R165) -/

theorem guardsAllow_iff (k : AccessKind) :
    s.guardsAllow e h addr len k = true ↔ ∀ g ∈ e.guards, gate s g h addr len k = true := by
  rw [State.guardsAllow, List.all_eq_true]

/-- An access inside an entry whose guards allow it is the device's. -/
theorem busLoad_eq_deviceLoad {k : LoadKind} (hm : s.BusMap) (he : e ∈ s.bus) (hl : 1 ≤ len) (hlo : e.base ≤ addr)
    (hhi : addr + len ≤ e.base + e.size) (hg : ∀ g ∈ e.guards, gate s g h addr len (accessKind k) = true) :
    busLoad h addr len k s = deviceLoad e ⟨h, k, addr - e.base, len⟩ s := by
  simp only [busLoad, route_of_mem hm he hl hlo hhi, (guardsAllow_iff _).2 hg, if_true]

/-- As `busLoad_eq_deviceLoad`, for a store. -/
theorem busStore_eq_deviceStore {b : Bytes} (hm : s.BusMap) (he : e ∈ s.bus) (hl : 1 ≤ b.length) (hlo : e.base ≤ addr)
    (hhi : addr + b.length ≤ e.base + e.size) (hg : ∀ g ∈ e.guards, gate s g h addr b.length .store = true) :
    busStore h addr b s = deviceStore e ⟨h, addr - e.base, b⟩ s := by
  simp only [busStore, route_of_mem hm he hl hlo hhi, (guardsAllow_iff _).2 hg, if_true]

/-- The three causes of a refusal at the bus: no byte, no one entry, a guard that denies. -/
def DeniedAtBus (s : State) (h addr len : Nat) (k : AccessKind) : Prop :=
  len = 0 ∨ (∀ e ∈ s.bus, ¬(e.base ≤ addr ∧ addr + len ≤ e.base + e.size))
    ∨ ∃ e ∈ s.bus, e.base ≤ addr ∧ addr + len ≤ e.base + e.size ∧ ∃ g ∈ e.guards, gate s g h addr len k = false

/-- An access that is denied is routed nowhere, or to the entry whose guard denies it. -/
theorem DeniedAtBus.guardsAllow_eq_false {k : AccessKind} (hd : DeniedAtBus s h addr len k) (hm : s.BusMap)
    (hr : s.route addr len = some e) : s.guardsAllow e h addr len k = false := by
  obtain ⟨hl, he, hlo, hhi⟩ := route_mem hr
  rcases hd with rfl | hnone | ⟨x, hx, hlo', hhi', g, hg, hgate⟩
  · omega
  · exact absurd ⟨hlo, hhi⟩ (hnone e he)
  · cases hr.symm.trans (route_of_mem hm hx hl hlo' hhi')
    exact List.all_eq_false.2 ⟨g, hg, by simp [hgate]⟩

theorem DeniedAtBus.busLoad_eq_refuse {k : LoadKind} (hd : DeniedAtBus s h addr len (accessKind k)) (hm : s.BusMap) :
    busLoad h addr len k s = refuse s := by
  unfold busLoad
  split
  · rfl
  next e hr => rw [hd.guardsAllow_eq_false hm hr, if_neg Bool.false_ne_true]

theorem DeniedAtBus.busStore_eq_refuse {b : Bytes} (hd : DeniedAtBus s h addr b.length .store) (hm : s.BusMap) :
    busStore h addr b s = refuse s := by
  unfold busStore
  split
  · rfl
  next e hr => rw [hd.guardsAllow_eq_false hm hr, if_neg Bool.false_ne_true]

/-- Settles O44: a denied access is refused, and a refused access only leaves the fault. -/
theorem busRefusals : Obligations.BusRefusals := by
  refine ⟨fun s h len addr k hs hbad => ?_, fun s h addr b hs hbad => ?_⟩
  · have hd : DeniedAtBus s h addr.toNat len (accessKind k) := hbad
    rw [exec, execBusLoad, hd.busLoad_eq_refuse hs.busMap]
    rfl
  · have hd : DeniedAtBus s h addr.toNat b.length .store := hbad.imp_left List.length_eq_zero_iff.2
    rw [exec, execBusStore, hd.busStore_eq_refuse hs.busMap]
    rfl

/-! ## RAM (log entry 6) -/

/-- Settles O42: the device at the entry is the RAM, at offset `addr - base`. -/
theorem busLoadsRam : Obligations.BusLoadsRam := by
  intro s e h len size addr k hs he hram hl hlo hhi hg
  have haddr : e.base + (addr.toNat - e.base) = addr.toNat := by omega
  refine ⟨s.mem.readBytes addr.toNat len, by simp, fun j hj => ?_, ?_⟩
  · simp [Memory.readBytes, hj]
  · rw [exec, execBusLoad, busLoad_eq_deviceLoad hs.busMap he hl hlo hhi hg]
    simp only [deviceLoad, hram, ramLoad, haddr]
    rfl

/-- Settles O43: as O42, and the written memory reads as `Memory.read_writeBytes` says. -/
theorem busStoresRam : Obligations.BusStoresRam := by
  intro s e h size addr b hs he hram hl hlo hhi hg
  have haddr : e.base + (addr.toNat - e.base) = addr.toNat := by omega
  refine ⟨s.mem.writeBytes addr.toNat b, ?_, Memory.writeBytes_wf _ _ _ hs.memory,
    fun a => Memory.read_writeBytes _ _ _ _ hs.memory⟩
  rw [exec, execBusStore, busStore_eq_deviceStore hs.busMap he hl hlo hhi hg]
  simp only [deviceStore, hram, ramStore, haddr]
  rfl

/-- No row is an access at a RAM. -/
theorem portAccess_ne_ram {d : Device} {a : Access} (hp : portAccess i = some (d, a)) (size : Nat) :
    d ≠ .ram size := by
  rintro rfl
  cases i
  case wgUntrusted g x => cases g <;> simp [portAccess, guardDevice] at hp
  case wgCrossing g x => cases g <;> simp [portAccess, guardDevice] at hp
  all_goals simp [portAccess] at hp

/-- Only a RAM looks at its base. -/
theorem deviceLoad_eq_of_ne_ram (he : ∀ size, e.device ≠ .ram size) (r : LoadReq) (s : State) :
    deviceLoad e r s = deviceLoad ⟨0, 0, e.device, []⟩ r s := by
  cases hd : e.device
  case ram size => exact absurd hd (he size)
  all_goals simp only [deviceLoad, hd]

theorem deviceStore_eq_of_ne_ram (he : ∀ size, e.device ≠ .ram size) (r : StoreReq) (s : State) :
    deviceStore e r s = deviceStore ⟨0, 0, e.device, []⟩ r s := by
  cases hd : e.device
  case ram size => exact absurd hd (he size)
  all_goals simp only [deviceStore, hd]

/-! ## The bus and the ports -/

/-- At a device's first entry an address is the port's address of its offset. -/
theorem portAddr_of_find {a : Word64} (hf : s.bus.find? (fun x => decide (x.device = e.device)) = some e)
    (ha : e.base ≤ a.toNat) : s.portAddr e.device (a.toNat - e.base) = a := by
  simp only [State.portAddr, hf, Nat.add_sub_cancel' ha, BitVec.ofNat_toNat, BitVec.setWidth_eq]

theorem forwards_of_entry (hm : s.BusMap) (he : e ∈ s.bus) (hl : 1 ≤ len) (hlo : e.base ≤ addr)
    (hhi : addr + len ≤ e.base + e.size) : forwards s.cfg e.device (addr - e.base) len = true := by
  obtain ⟨-, hall⟩ := hm
  obtain ⟨-, -, hsize, -⟩ := hall e he
  exact (forwards_eq_true _ _ _ _).2 ⟨e.size, hsize, by omega, by omega⟩

/-- Settles O45: both are the device's own access, and the address of the port is the transaction's. -/
theorem busReachesThePort : Obligations.BusReachesThePort := by
  intro s e h addr i hs hf hlo
  have he : e ∈ s.bus := List.mem_of_find?_eq_some hf
  refine ⟨fun len k hl hhi hg hp => ?_, fun b hl hhi hg hp => ?_⟩
  · have hfwd := forwards_of_entry hs.busMap he hl hlo hhi
    rw [exec_eq_port hp, atPort, portLoad_of_forwards _ _ _ _ hfwd, portAddr_of_find hf hlo, exec, execBusLoad,
      busLoad_eq_deviceLoad hs.busMap he hl hlo hhi hg, deviceLoad_eq_of_ne_ram (portAccess_ne_ram hp)]
  · have hfwd := forwards_of_entry hs.busMap he hl hlo hhi
    rw [exec_eq_port hp, atPort, portStore_of_forwards _ _ _ _ hfwd, portAddr_of_find hf hlo, exec, execBusStore,
      busStore_eq_deviceStore hs.busMap he hl hlo hhi hg, deviceStore_eq_of_ne_ram (portAccess_ne_ram hp)]

/-! ## What an access answers -/

/-- R160: a load on the bus that is honoured answers as many bytes as asked. -/
theorem busLoad_length {k : LoadKind} {b : Bytes} (hb : (busLoad h addr len k s).2 = some b) : b.length = len := by
  unfold busLoad at hb
  split at hb
  · cases hb
  · split at hb
    · exact deviceLoad_length _ _ _ _ hb
    · cases hb

/-- Settles O46: the answer decides how the access ends. -/
theorem busAccessesAnswer : Obligations.BusAccessesAnswer := by
  refine ⟨fun s h len addr k => ⟨_, finishLoad_eq _ _ _ _, ?_⟩, fun s h addr b => ⟨_, finishStore_eq _ _ _, ?_⟩,
    rfl, rfl, rfl⟩
  · cases hb : (busLoad h addr.toNat len k s).2 with
    | none => exact .inr rfl
    | some b => exact .inl ⟨b, rfl, busLoad_length hb⟩
  · cases (busStore h addr.toNat b s).2 with
    | none => exact .inr rfl
    | some _ => exact .inl rfl

@[simp] theorem sampleIfRealTime_mipOf (s : State) (h : Nat) : (sampleIfRealTime s).mipOf h = s.mipOf h := by
  simp [State.mipOf]

/-- Settles O47: of the effects only the CLINT frame's, an external device's and the bare output can end in a fault. -/
theorem refusedAccessIsPrecise : Obligations.RefusedAccessIsPrecise := by
  intro s t i f e hout
  cases exec_effect e
  case same o => cases hout; exact ⟨rfl, rfl, fun _ => ⟨rfl, rfl, rfl⟩, fun _ => rfl⟩
  case external o x => cases hout; exact ⟨rfl, rfl, fun _ => ⟨rfl, rfl, rfl⟩, fun _ => rfl⟩
  case clint o a _ =>
    cases hout
    refine ⟨?_, by simp, fun h => by simp, fun hr => by simp [sampleIfRealTime, hr]⟩
    unfold sampleIfRealTime
    split
    · rfl
    · rfl
  case constructed c _ hc =>
    obtain ⟨contexts, bus, -, -, -, rfl⟩ := construct_eq_ok.1 hc
    cases hout
  all_goals cases hout

/-- Settles O48: of the effects only a RAM's store writes memory, and `Memory.read_writeBytes` says where. -/
theorem memoryFrame : Obligations.MemoryFrame := by
  intro s t i a hs e hout
  cases exec_effect e
  case ram h addr b hi =>
    rw [State.setOut_mem, State.setMem_mem, Memory.read_writeBytes _ _ _ _ hs.memory, if_neg (hout h addr b hi)]
  case constructed hu _ => exact absurd hu hs.phase_ne
  all_goals simp

/-! ## Steps -/

section Steps
variable {bytes : Bytes} {rest : List Bytes}

/-- A row at the head of the queue: a configuration runs in its phase, any other transaction ends construction. -/
theorem step_transaction (hq : s.queue = bytes :: rest) (hd : decodeRecord bytes = some (.transaction i)) :
    step s = if isConfiguration i then exec i (s.take rest true)
      else if s.phase = .unbuilt then .refused .notConstructed else exec i (s.take rest false) := by
  simp only [step, State.fetch, hq, hd]
  split_ifs <;> rfl

theorem step_atomic {k : AtomicKind} {a : Word64} (hq : s.queue = bytes :: rest)
    (hd : decodeRecord bytes = some (.atomic k h a)) :
    step s = if s.phase = .unbuilt then .refused .notConstructed else serveAtomic k h a (s.take rest false) := by
  simp only [step, State.fetch, hq, hd]
  split_ifs <;> rfl

theorem step_fence (hq : s.queue = bytes :: rest) (hd : decodeRecord bytes = some (.fence h)) :
    step s = if s.phase = .unbuilt then .refused .notConstructed else serveFence (s.take rest false) := by
  simp only [step, State.fetch, hq, hd]
  split_ifs <;> rfl

end Steps

/-- Settles O54: the cases of what stands at the head of the queue. -/
theorem stepRunsTheDecodedRecord : Obligations.StepRunsTheDecodedRecord := by
  refine ⟨fun s bytes rest i hq hd => ?_, fun s hq => ?_, fun s bytes rest hq hd => ?_, ?_⟩
  · rw [step_transaction hq hd, take_eq, take_eq]
    exact ⟨fun hi => by simp [hi], fun hi hp => by simp [hi, hp], fun hi hp => by simp [hi, hp]⟩
  · simp only [step, State.fetch, hq]
  · simp only [step, State.fetch, hq, hd]
  · rintro s bytes rest hq hp (⟨k, h, addr, hd⟩ | ⟨h, hd⟩)
    · rw [step_atomic hq hd, if_pos hp]
    · rw [step_fence hq hd, if_pos hp]

/-- Settles O55: after construction the record is taken, and only the output is left. -/
theorem atomicsAndFences : Obligations.AtomicsAndFences := by
  intro s bytes rest hq hp
  refine ⟨fun k h addr hd => ?_, fun h hd => ?_⟩
  · rw [step_atomic hq hd, if_neg hp, serveAtomic_eq]
    rfl
  · rw [step_fence hq hd, if_neg hp]
    rfl

end Sys2Proof.Machine
end

section
/-! Proofs about the CLINT (41_clint.md): the family that an access selects, its operation in the access frame, and what
the frame leaves. -/

namespace Sys2Proof.Machine

variable {s t : State} {i : Instr}

/-! ## The family that an access selects (R123) -/

section Family
variable {r : LoadReq} {q : StoreReq}

theorem clintLoad_msip (hf : clintFamily s.cfg.nHarts r.off r.len = some .msip) :
    clintLoad r s = clintFrame (ldMsip r) s := by
  simp [clintLoad, clintFrame, hf]

theorem clintLoad_mtimecmp (hf : clintFamily s.cfg.nHarts r.off r.len = some .mtimecmp) :
    clintLoad r s = clintFrame (ldMtimecmp r) s := by
  simp [clintLoad, clintFrame, hf]

theorem clintLoad_mtime (hf : clintFamily s.cfg.nHarts r.off r.len = some .mtime) :
    clintLoad r s = clintFrame (ldMtime r) s := by
  simp [clintLoad, clintFrame, hf]

theorem clintLoad_reserved (hf : clintFamily s.cfg.nHarts r.off r.len = none) :
    clintLoad r s = clintFrame refuse s := by
  simp [clintLoad, clintFrame, hf]

theorem clintStore_msip (hf : clintFamily s.cfg.nHarts q.off q.data.length = some .msip) :
    clintStore q s = clintFrame (stMsip q) s := by
  simp [clintStore, clintFrame, hf]

theorem clintStore_mtimecmp (hf : clintFamily s.cfg.nHarts q.off q.data.length = some .mtimecmp) :
    clintStore q s = clintFrame (stMtimecmp q) s := by
  simp [clintStore, clintFrame, hf]

theorem clintStore_mtime (hf : clintFamily s.cfg.nHarts q.off q.data.length = some .mtime) :
    clintStore q s = clintFrame (stMtime q) s := by
  simp [clintStore, clintFrame, hf]

theorem clintStore_reserved (hf : clintFamily s.cfg.nHarts q.off q.data.length = none) :
    clintStore q s = clintFrame refuse s := by
  simp [clintStore, clintFrame, hf]

/-- Every row of the CLINT, by an access inside the device, is the device's load (R122). -/
theorem exec_eq_clintLoad (hi : portAccess i = some (.clint, .load r)) (hl : 1 ≤ r.len) (hin : r.off + r.len ≤ 0xC000) :
    exec i s = finishLoad r.hart r.kind (s.portAddr .clint r.off) (clintLoad r s) := by
  rw [exec_eq_port hi, atPort, portLoad_of_forwards _ _ _ _ (forwards_clint s _ _ hl hin)]
  rfl

theorem exec_eq_clintStore (hi : portAccess i = some (.clint, .store q)) (hl : 1 ≤ q.data.length)
    (hin : q.off + q.data.length ≤ 0xC000) :
    exec i s = finishStore q.hart (s.portAddr .clint q.off) (clintStore q s) := by
  rw [exec_eq_port hi, atPort, portStore_of_forwards _ _ _ _ (forwards_clint s _ _ hl hin)]
  rfl

end Family

/-! ## What the frame leaves -/

/-- The frame around an operation that changes nothing: its answer, and the frame's effect at the sampled time. -/
theorem clintFrame_idle {op : State → Served} {answer : Option Bytes} (hs : s.Shape)
    (hop : op (sampleIfRealTime s) = (sampleIfRealTime s, answer)) (o : Output) :
    ∃ t, clintFrame op s = (t, answer) ∧ (t.setOut o).mtime = (sampleIfRealTime s).mtime
      ∧ SampledTime s (t.setOut o).clockUs (t.setOut o).mtime ∧ (t.setOut o).mtimecmp = s.mtimecmp
      ∧ SameMsip s (t.setOut o) ∧ ClintEffect s (t.setOut o) := by
  obtain ⟨heffect, hmsip, hcmp, hmtime, hclock⟩ := clintFrame_pure op s o hs (congrArg Prod.fst hop)
  refine ⟨(clintFrame op s).1, by rw [clintFrame_eq, hop], hmtime, ?_, hcmp, hmsip, heffect⟩
  rw [hmtime, hclock]
  exact sampleIfRealTime_sampled s

@[simp] theorem storeMsip_meip (off : Nat) (b : Bytes) (h : Nat) :
    ((storeMsip off b s).mipOf h).meip = (s.mipOf h).meip := by
  rw [storeMsip_mipOf]

@[simp] theorem storeMsip_seip (off : Nat) (b : Bytes) (h : Nat) :
    ((storeMsip off b s).mipOf h).seip = (s.mipOf h).seip := by
  rw [storeMsip_mipOf]

/-- The frame around a store of MSIP. -/
theorem clintFrame_stMsip (hs : s.Shape) (r : StoreReq) (hin : r.off + r.data.length ≤ 4 * s.cfg.nHarts) (o : Output) :
    ∃ t, clintFrame (stMsip r) s = (t, some [])
      ∧ (∀ h, ((t.setOut o).mipOf h).msip =
          if r.off ≤ 4 * h ∧ 4 * h < r.off + r.data.length then (r.data.getD (4 * h - r.off) 0#8).getLsbD 0
          else (s.mipOf h).msip)
      ∧ SampledTime s (t.setOut o).clockUs (t.setOut o).mtime ∧ (t.setOut o).mtimecmp = s.mtimecmp
      ∧ ClintEffect s (t.setOut o) := by
  obtain ⟨heffect, hmsip⟩ := clintFrame_effect (stMsip r) s o hs
    ⟨rfl, by simp [stMsip], by simp [stMsip], fun h => by simp [stMsip]⟩
  refine ⟨(clintFrame (stMsip r) s).1, rfl, fun h => ?_, ?_, by simp [clintFrame_eq, stMsip], heffect⟩
  · have hcover : r.off ≤ 4 * h ∧ 4 * h < r.off + r.data.length → h < s.cfg.nHarts := by omega
    rw [hmsip, stMsip, storeMsip_msip _ _ _ _ (by simpa using hs.2.1), sampleIfRealTime_mipOf, sampleIfRealTime_cfg]
    exact if_congr (and_iff_right_of_imp hcover) rfl rfl
  · exact sampleIfRealTime_sampled s

/-! ## The rows of the CLINT -/

section Families
variable {off len : Nat}

theorem State.Inv.family_msip (hs : s.Inv) (hl : 1 ≤ len) (hin : off + len ≤ 4 * s.cfg.nHarts) :
    clintFamily s.cfg.nHarts off len = some .msip := by
  obtain ⟨hfam, -⟩ := clintDecode s.cfg.nHarts off len hs.nHarts_le hl
  exact hfam.2 hin

theorem State.Inv.family_mtimecmp (hs : s.Inv) (hl : 1 ≤ len) (hlo : 0x4000 ≤ off)
    (hhi : off + len ≤ 0x4000 + 8 * s.cfg.nHarts) : clintFamily s.cfg.nHarts off len = some .mtimecmp := by
  obtain ⟨-, hfam, -⟩ := clintDecode s.cfg.nHarts off len hs.nHarts_le hl
  exact hfam.2 ⟨hlo, hhi⟩

theorem State.Inv.family_mtime (hs : s.Inv) (hl : 1 ≤ len) (hlo : 0xBFF8 ≤ off) (hhi : off + len ≤ 0xC000) :
    clintFamily s.cfg.nHarts off len = some .mtime := by
  obtain ⟨-, -, hfam, -⟩ := clintDecode s.cfg.nHarts off len hs.nHarts_le hl
  exact hfam.2 ⟨hlo, hhi⟩

theorem State.Inv.family_none (hs : s.Inv) (hl : 1 ≤ len) (hmsip : ¬off + len ≤ 4 * s.cfg.nHarts)
    (hcmp : ¬(0x4000 ≤ off ∧ off + len ≤ 0x4000 + 8 * s.cfg.nHarts)) (htime : ¬0xBFF8 ≤ off) :
    clintFamily s.cfg.nHarts off len = none := by
  obtain ⟨-, -, -, hfam⟩ := clintDecode s.cfg.nHarts off len hs.nHarts_le hl
  exact hfam.2 ⟨hmsip, hcmp, fun h => htime h.1⟩

end Families

/-- Settles O9: the frame leaves the MSIP bits whose bytes the load answers. -/
theorem clintLoadMsip : Obligations.ClintLoadMsip := by
  intro s r hs hl hin
  have hn := hs.nHarts_le
  have hbytes : (sampleIfRealTime s).msipBytes = s.msipBytes := by simp [State.msipBytes]
  obtain ⟨t, hframe, -, hleft⟩ := clintFrame_idle (op := ldMsip r) hs.shape rfl
    (.loaded (window (sampleIfRealTime s).msipBytes r.off r.len))
  refine ⟨_, _, ?_, rfl, ?_, fun j hj => ?_, hleft⟩
  · rw [exec_eq_clintLoad rfl hl (by omega), clintLoad_msip (hs.family_msip hl hin), hframe]
    rfl
  · rw [hbytes]
    exact window_length _ _ _ (by rwa [msipBytes_length])
  · rw [hbytes, window_getD _ _ _ _ hj, msipBytes_getD s _ (by omega)]

/-- Settles O10: the store is the frame's around the MSIP bits that it covers. -/
theorem clintStoreMsip : Obligations.ClintStoreMsip := by
  intro s r hs hl hin
  have hn := hs.nHarts_le
  obtain ⟨t, hframe, hleft⟩ := clintFrame_stMsip hs.shape r hin .stored
  refine ⟨_, ?_, rfl, hleft⟩
  rw [exec_eq_clintStore rfl hl (by omega), clintStore_msip (hs.family_msip hl hin), hframe]
  rfl

/-- Settles O11: the frame leaves the compare values, and the time that a load of `mtime` reads is the sampled one. -/
theorem clintTimeLoads : Obligations.ClintTimeLoads := by
  refine ⟨fun s r hs hl hlo hhi => ?_, fun s r hs hl hlo hhi => ?_⟩
  · have hn := hs.nHarts_le
    have hbytes : (sampleIfRealTime s).mtimecmpBytes = s.mtimecmpBytes := by simp [State.mtimecmpBytes, State.timecmp]
    obtain ⟨t, hframe, -, hleft⟩ := clintFrame_idle (op := ldMtimecmp r) hs.shape rfl
      (.loaded (window (sampleIfRealTime s).mtimecmpBytes (r.off - 0x4000) r.len))
    refine ⟨_, _, ?_, rfl, ?_, fun j hj => ?_, hleft⟩
    · rw [exec_eq_clintLoad rfl hl (by omega), clintLoad_mtimecmp (hs.family_mtimecmp hl hlo hhi), hframe]
      rfl
    · rw [hbytes]
      exact window_length _ _ _ (by rw [mtimecmpBytes_length]; omega)
    · rw [hbytes, window_getD _ _ _ _ hj, mtimecmpBytes_getD s _ (by omega)]
  · obtain ⟨t, hframe, hmtime, hleft⟩ := clintFrame_idle (op := ldMtime r) hs.shape rfl
      (.loaded (readWindow (sampleIfRealTime s).mtime (r.off - 0xBFF8) r.len))
    refine ⟨_, _, ?_, rfl, ?_, hleft⟩
    · rw [exec_eq_clintLoad rfl hl (by omega), clintLoad_mtime (hs.family_mtime hl hlo hhi), hframe]
      rfl
    · rw [hmtime]
      exact readWindow_isWindow _ (by omega)

/-- The value that eight bytes are read back as. -/
theorem byteOf_leValue (b : Bytes) (j : Nat) (hl : b.length = 8) :
    byteOf (BitVec.ofNat 64 (leValue b)) j = b.getD j 0#8 := by
  have hlt := leValue_lt b
  rw [hl] at hlt
  rw [byteOf, extract_byte, BitVec.toNat_ofNat, Nat.mod_eq_of_lt hlt, leValue_byte]

/-- R186: the compare values that a store leaves. -/
def patchedTimecmps (off : Nat) (b : Bytes) (u : State) : List Word64 :=
  (List.range u.cfg.nHarts).map fun i => BitVec.ofNat 64 (leValue (window (patch u.mtimecmpBytes off b) (8 * i) 8))

theorem stMtimecmp_eq (r : StoreReq) (u : State) :
    stMtimecmp r u = (u.setMtimecmp (patchedTimecmps (r.off - 0x4000) r.data u), some []) := rfl

/-- R186: a byte of a compare value is the store's where the store covers it. -/
theorem patchedTimecmps_byte {off : Nat} {b : Bytes} (hin : off + b.length ≤ 8 * s.cfg.nHarts) {i j : Nat}
    (hi : i < s.cfg.nHarts) (hj : j < 8) :
    byteOf ((patchedTimecmps off b s).getD i 0#64) j =
      if off ≤ 8 * i + j ∧ 8 * i + j < off + b.length then b.getD (8 * i + j - off) 0#8
      else byteOf (s.timecmp i) j := by
  have hlen := mtimecmpBytes_length s
  have hpatch : (patch s.mtimecmpBytes off b).length = 8 * s.cfg.nHarts := by
    rw [patch_length _ _ _ (by omega), hlen]
  have hvalue : (patchedTimecmps off b s).getD i 0#64
      = BitVec.ofNat 64 (leValue (window (patch s.mtimecmpBytes off b) (8 * i) 8)) := by
    simp [patchedTimecmps, hi]
  rw [hvalue, byteOf_leValue _ _ (window_length _ _ _ (by omega)), window_getD _ _ _ _ hj,
    patch_getD _ _ _ _ (by omega), mtimecmpBytes_getD _ _ (by omega), show (8 * i + j) / 8 = i by omega,
    show (8 * i + j) % 8 = j by omega]

theorem patchedTimecmps_sampled (off : Nat) (b : Bytes) (s : State) :
    patchedTimecmps off b (sampleIfRealTime s) = patchedTimecmps off b s := by
  simp [patchedTimecmps, State.mtimecmpBytes, State.timecmp]

/-- Settles O12: the frame is run around the patched bytes of the compare registers, or of the sampled `mtime`. -/
theorem clintTimeStores : Obligations.ClintTimeStores := by
  refine ⟨fun s r hs hl hlo hhi => ?_, fun s r hs hl hlo hhi => ?_⟩
  · have hn := hs.nHarts_le
    obtain ⟨t, hframe, heffect, hmsip, hcmp, hmtime, hclock⟩ := clintFrame_setMtimecmp
      (patchedTimecmps (r.off - 0x4000) r.data) s .stored (some []) hs.shape (by simp [patchedTimecmps])
    have hexec : exec (.clintStMtimecmp r) s = .next (t.setOut .stored) := by
      rw [exec_eq_clintStore rfl hl (by omega), clintStore_mtimecmp (hs.family_mtimecmp hl hlo hhi)]
      exact congrArg (finishStore _ _) hframe
    refine ⟨_, hexec, rfl, fun i hi j hj => ?_, ?_, hmsip, heffect⟩
    · rw [State.timecmp, hcmp, patchedTimecmps_sampled]
      exact patchedTimecmps_byte (by omega) hi hj
    · rw [hmtime, hclock]
      exact sampleIfRealTime_sampled s
  · obtain ⟨t, hframe, heffect, hmsip, hcmp, hmtime, hclock⟩ := clintFrame_setMtime
      (fun s => writeWindow s.mtime (r.off - 0xBFF8) r.data) s .stored (some []) hs.shape
    have hexec : exec (.clintStMtime r) s = .next (t.setOut .stored) := by
      rw [exec_eq_clintStore rfl hl (by omega), clintStore_mtime (hs.family_mtime hl hlo hhi)]
      exact congrArg (finishStore _ _) hframe
    refine ⟨_, (sampleIfRealTime s).mtime, hexec, rfl, ?_, fun j hj => ?_, hcmp, hmsip, heffect⟩
    · rw [hclock]
      exact sampleIfRealTime_sampled s
    · rw [hmtime]
      exact writeWindow_byte _ _ _ _ (by decide) (by omega) hj

/-- Settles O13: the refusal is inside the frame, so the frame's effect is left beside the fault. -/
theorem clintReservedRefuses : Obligations.ClintReservedRefuses := by
  refine ⟨fun s r hs hl hin hmsip hcmp htime => ?_, fun s r hs hl hin hmsip hcmp htime => ?_⟩
  · obtain ⟨t, hframe, -, hleft⟩ := clintFrame_idle (op := refuse) hs.shape rfl (refusedOut s .clint (.load r))
    refine ⟨_, ?_, rfl, hleft⟩
    rw [exec_eq_clintLoad rfl hl hin,
      clintLoad_reserved (hs.family_none hl hmsip hcmp htime), hframe]
    rfl
  · obtain ⟨t, hframe, -, hleft⟩ := clintFrame_idle (op := refuse) hs.shape rfl (refusedOut s .clint (.store r))
    refine ⟨_, ?_, rfl, hleft⟩
    rw [exec_eq_clintStore rfl hl hin,
      clintStore_reserved (hs.family_none hl hmsip hcmp htime), hframe]
    rfl

/-! ## Ticks and the clock -/

/-- R190's time, as a write of `mtime` in the frame. -/
def tickedMtime (inc : Word64) (u : State) : Word64 := if u.cfg.realTime then u.mtime else u.mtime + inc

theorem tickTime_eq (inc : Word64) (s : State) :
    tickTime inc s = (sampleIfRealTime s).setMtime (tickedMtime inc (sampleIfRealTime s)) := by
  unfold tickTime sampleIfRealTime tickedMtime
  split
  next hr => rw [sample_cfg, if_pos hr]; rfl
  next => rfl

/-- Settles O14: a tick is the frame around its write of `mtime`. -/
theorem clintTick : Obligations.ClintTick := by
  intro s inc hs
  obtain ⟨t, hframe, heffect, hmsip, hcmp, hmtime, hclock⟩ :=
    clintFrame_setMtime (tickedMtime inc) s .none (some []) hs.shape
  have ht : t = recomputeMtip (tickTime inc s) := by
    rw [tickTime_eq]
    exact (congrArg Prod.fst hframe).symm
  refine ⟨t.setOut .none, (sampleIfRealTime s).mtime, by rw [ht]; rfl, rfl, ?_, ?_, hcmp, hmsip, heffect⟩
  · rw [hclock]
    exact sampleIfRealTime_sampled s
  · rw [hmtime, tickedMtime, sampleIfRealTime_cfg]
    split
    · rfl
    next hr => simp [sampleIfRealTime, hr]

theorem sampleIfRealTime_clock_ge (s : State) : s.clockUs ≤ (sampleIfRealTime s).clockUs := by
  unfold sampleIfRealTime
  split
  · exact (nextClock_ge s).1
  · exact le_rfl

/-- D49: no instruction sets the clock's last reading back. -/
theorem Effect.clock_ge (h : Effect i s t) (hp : s.phase ≠ .unbuilt) : s.clockUs ≤ t.clockUs := by
  cases h
  case constructed hu _ => exact absurd hu hp
  case clint | msip | mtimecmp | mtime => exact sampleIfRealTime_clock_ge s
  case tick inc hi =>
    rw [tickTime_eq]
    exact sampleIfRealTime_clock_ge s
  all_goals exact le_rfl

/-- In real-time mode a load of `mtime` leaves the value derived from its clock reading. -/
theorem exec_clintLdMtime_realTime {r : LoadReq} (hs : s.Inv) (hr : s.cfg.realTime = true) (hoff : r.off = 0xBFF8)
    (hlen : r.len = 8) (e : exec (.clintLdMtime r) s = .next t) :
    t.mtime.toNat = (t.clockUs - s.cfg.anchorUs) * s.cfg.freqHz / 1000000 % 2 ^ 64 ∧ s.clockUs ≤ t.clockUs := by
  obtain ⟨-, hloads⟩ := clintTimeLoads
  obtain ⟨u, b, hu, -, -, htime, -⟩ := hloads s r hs (by omega) (by omega) (by omega)
  cases e.symm.trans hu
  rw [SampledTime, if_pos hr] at htime
  obtain ⟨hclock, -, hmtime⟩ := htime
  exact ⟨hmtime, hclock⟩

/-- Settles O15: the clock readings are in order, and the derived values with them. -/
theorem realTimeMonotone : Obligations.RealTimeMonotone := by
  intro s t u v i r q hs hr hroff hrlen hqoff hqlen et eu ev
  have ht := exec_inv hs et
  obtain ⟨hcfg_t, -⟩ := (exec_effect et).fixed hs.phase_ne
  obtain ⟨hcfg_u, -⟩ := (exec_effect eu).fixed ht.phase_ne
  obtain ⟨hcfg_v, -⟩ := (exec_effect ev).fixed (exec_inv ht eu).phase_ne
  obtain ⟨htime_t, -⟩ := exec_clintLdMtime_realTime hs hr hroff hrlen et
  have hclock_u : t.clockUs ≤ u.clockUs := (exec_effect eu).clock_ge ht.phase_ne
  obtain ⟨htime_v, hclock_v⟩ :=
    exec_clintLdMtime_realTime (exec_inv ht eu) (by rw [hcfg_u, hcfg_t, hr]) hqoff hqlen ev
  rw [hcfg_u, hcfg_t] at htime_v
  rw [hcfg_v, hcfg_u, hcfg_t, htime_t, htime_v]
  have hle : (t.clockUs - s.cfg.anchorUs) * s.cfg.freqHz / 1000000
      ≤ (v.clockUs - s.cfg.anchorUs) * s.cfg.freqHz / 1000000 := by gcongr; omega
  rcases Nat.lt_or_ge ((v.clockUs - s.cfg.anchorUs) * s.cfg.freqHz / 1000000) (2 ^ 64) with hlt | hge
  · left
    rwa [Nat.mod_eq_of_lt hlt, Nat.mod_eq_of_lt (hle.trans_lt hlt)]
  · exact .inr hge

/-! ## Interrupts between harts -/

/-- Settles O18: the store on the bus is the CLINT's store of the one MSIP word that it covers. -/
theorem interProcessorInterrupt : Obligations.InterProcessorInterrupt := by
  intro s e h j x hs he hclint hguards hj
  have hn := hs.nHarts_le
  obtain ⟨-, hall⟩ := hs.busMap
  obtain ⟨-, hend, hsize, -⟩ := hall e he
  rw [hclint] at hsize
  have hsize : e.size = 0xC000 := (Option.some.inj hsize).symm
  have haddr : (BitVec.ofNat 64 (e.base + 4 * j)).toNat = e.base + 4 * j := by
    rw [BitVec.toNat_ofNat]
    omega
  have hin : 4 * j + (leBytes 4 (if x then 1 else 0)).length ≤ 4 * s.cfg.nHarts := by
    rw [leBytes_length]
    omega
  obtain ⟨t, hframe, hmsip, -, hcmp, heffect⟩ := clintFrame_stMsip hs.shape
    ⟨h, 4 * j, leBytes 4 (if x then 1 else 0)⟩ hin .stored
  simp only [leBytes_length] at hmsip
  refine ⟨t.setOut .stored, ?_, rfl, fun k => ?_, hcmp, heffect⟩
  · rw [exec, execBusStore, haddr, busStore_eq_deviceStore hs.busMap he (by simp) (by omega)
      (by rw [leBytes_length]; omega) (by simp [hguards])]
    simp only [deviceStore, hclint, Nat.add_sub_cancel_left]
    rw [clintStore_msip (hs.family_msip (by simp) hin), hframe]
    rfl
  · rw [hmsip]
    by_cases hk : k = j
    · subst hk
      rw [if_pos (by omega), if_pos rfl, Nat.sub_self]
      cases x <;> decide
    · rw [if_neg (by omega), if_neg hk]

end Sys2Proof.Machine
end

section
/-! Proofs about the PLIC (42_plic.md): the register that an access selects, its operation, Update after it, and the
pending and claimed bits over runs. -/

namespace Sys2Proof.Machine

variable {s t : State} {i : Instr}

/-! ## Update (R234) -/

/-- R231: an arbitration finds an id exactly when some IRQ is eligible. -/
theorem best_ne_zero_iff (s : State) (a : Nat) : best s a ≠ 0 ↔ ∃ i, Eligible s a i := by
  rcases bestIsGreatestEligible s a with ⟨h0, hnone⟩ | ⟨he, -⟩
  · simp [h0, hnone]
  · have := he.1
    exact ⟨fun _ => ⟨_, he⟩, fun _ => by omega⟩

/-- An operation that writes the PLIC's arrays and ends with Update has no other effect than that of R234. -/
theorem plicEffect_update (hs : s.Inv) (p : Plic) (o : Output) :
    PlicEffect s ((update (s.setPlic p)).setOut o) := by
  obtain ⟨-, hdistinct, hharts⟩ := hs.contextTable
  have hlines (h : Nat) :=
    driveContext_foldl (s.setPlic p) s.contexts s.mip hdistinct h ⟨false, false, false, false⟩
  refine ⟨rfl, by simp, fun h => update_mipOf (s.setPlic p) h, fun h => (hlines h).1, fun h => (hlines h).2.1,
    fun c hc => ?_⟩
  obtain ⟨-, -, hdriven⟩ := hlines c.hartid
  obtain ⟨hm, hsv⟩ := hdriven (hs.mip_length ▸ hharts c hc) c hc rfl
  have hbest := best_ne_zero_iff (s.setPlic p) c.addrid
  refine ⟨fun hmode => ?_, fun hmode => ?_⟩
  · exact ((hm hmode).symm ▸ decide_eq_true_iff).trans hbest
  · exact ((hsv hmode).symm ▸ decide_eq_true_iff).trans hbest

/-- Settles O20: Update is the operation that writes what is there. -/
theorem updateDrivesTheLines : Obligations.UpdateDrivesTheLines :=
  fun s hs => ⟨plicEffect_update hs s.plic s.out, rfl⟩

/-! ## The register that an access selects -/

/-- R124: the load of a register. -/
def plicRegisterLoad (x : PlicRegister) (s : State) : Served :=
  match x with
  | .priority i => ldPriority i s
  | .pending w => ldPending w s
  | .enable a w => ldEnable a w s
  | .threshold a => ldThreshold a s
  | .claim a => ldClaim a s
  | .reserved => refuse s

/-- R124: the store to a register. -/
def plicRegisterStore (x : PlicRegister) (v : Word32) (s : State) : Served :=
  match x with
  | .priority i => stPriority i v s
  | .pending _ => refuse s
  | .enable a w => stEnable a w v s
  | .threshold a => stThreshold a v s
  | .claim _ => stComplete v s
  | .reserved => refuse s

theorem plicLoad_eq_register {r : LoadReq} {x : PlicRegister} (hx : s.plicSelects r.off r.len = some x) :
    plicLoad r s = plicRegisterLoad x s := by
  obtain ⟨hal, rfl⟩ := (plicSelects_eq_some _ _ _ _).1 hx
  exact if_pos hal

theorem plicStore_eq_register {r : StoreReq} {x : PlicRegister} (hx : s.plicSelects r.off r.data.length = some x) :
    plicStore r s = plicRegisterStore x (storeValue r.data) s := by
  obtain ⟨hal, rfl⟩ := (plicSelects_eq_some _ _ _ _).1 hx
  exact if_pos hal

theorem plicLoad_misaligned {r : LoadReq} (hx : s.plicSelects r.off r.len = none) : plicLoad r s = refuse s :=
  if_neg fun hal => by simp [State.plicSelects, hal] at hx

theorem plicStore_misaligned {r : StoreReq} (hx : s.plicSelects r.off r.data.length = none) :
    plicStore r s = refuse s :=
  if_neg fun hal => by simp [State.plicSelects, hal] at hx

/-- Settles O26: each is refused by the device, so the port leaves the fault alone. -/
theorem plicRefusals : Obligations.PlicRefusals := by
  refine ⟨fun s a ha => ?_, fun s r w hx => ?_, fun s r hx => ?_, fun s r hx => ?_⟩
  · cases a with
    | load r => exact exec_refusedLoad rfl (plicLoad_misaligned ((plicSelects_eq_none _ _ _).2 ha))
    | store r => exact exec_refusedStore rfl (plicStore_misaligned ((plicSelects_eq_none _ _ _).2 ha))
  · exact exec_refusedStore rfl (plicStore_eq_register hx)
  · exact exec_refusedLoad rfl (plicLoad_eq_register hx)
  · exact exec_refusedStore rfl (plicStore_eq_register hx)

/-! ## The registers lie in the device -/

section Layout
variable {c : Config} {A off a w : Nat}

/-- R12: the bases and strides are multiples of 4. -/
theorem plicLayoutOk_aligned (h : plicLayoutOk c A = true) :
    c.priorityBase % 4 = 0 ∧ c.pendingBase % 4 = 0 ∧ c.enableBase % 4 = 0 ∧ c.enableStride % 4 = 0
      ∧ c.contextBase % 4 = 0 ∧ c.contextStride % 4 = 0 := by
  simp only [plicLayoutOk, Bool.and_eq_true, decide_eq_true_eq] at h
  omega

theorem plicLayoutOk_end (h : plicLayoutOk c A = true) : c.contextBase + A * c.contextStride ≤ c.plicSize := by
  simp only [plicLayoutOk, Bool.and_eq_true, decide_eq_true_eq] at h
  omega

/-- The block of a step `a` of `A` ends with the steps or before. -/
theorem step_block_le {stride : Nat} (ha : a < A) : a * stride + stride ≤ A * stride := by
  rw [← Nat.succ_mul]
  exact Nat.mul_le_mul_right _ ha

theorem mul_mod_four {stride : Nat} (h : stride % 4 = 0) : a * stride % 4 = 0 := by
  rw [Nat.mul_mod, h, Nat.mul_zero, Nat.zero_mod]

/-- A register of the PLIC stands at a multiple of 4 inside the device. -/
theorem plicRegister_bounds (hok : plicLayoutOk c A = true) {x : PlicRegister} (hx : plicRegister c A off = x)
    (hne : x ≠ .reserved) : off % 4 = 0 ∧ off + 4 ≤ c.plicSize := by
  obtain ⟨hpri, hpend, hstride, hen, hctx⟩ := plicLayoutOk_bounds hok
  obtain ⟨hp4, hq4, he4, hes4, hc4, hcs4⟩ := plicLayoutOk_aligned hok
  have hend := plicLayoutOk_end hok
  cases x with
  | priority i =>
    obtain ⟨h1, h2, rfl⟩ := (plicRegister_eq_priority i).1 hx
    omega
  | pending w =>
    obtain ⟨hw, rfl⟩ := (plicRegister_eq_pending hok w).1 hx
    omega
  | enable a w =>
    obtain ⟨ha, hw, rfl⟩ := (plicRegister_eq_enable hok a w).1 hx
    have := step_block_le (stride := c.enableStride) ha
    have := mul_mod_four (a := a) hes4
    omega
  | threshold a =>
    obtain ⟨ha, rfl⟩ := (plicRegister_eq_threshold hok a).1 hx
    have := step_block_le (stride := c.contextStride) ha
    have := mul_mod_four (a := a) hcs4
    omega
  | claim a =>
    obtain ⟨ha, rfl⟩ := (plicRegister_eq_claim hok a).1 hx
    have := step_block_le (stride := c.contextStride) ha
    have := mul_mod_four (a := a) hcs4
    omega
  | reserved => exact absurd rfl hne

end Layout

/-- A 4-byte access at a register's offset selects it and is forwarded. -/
theorem State.Inv.plicSelects_and_forwards (hs : s.Inv) {off len : Nat} {x : PlicRegister} (hlen : len = 4)
    (hx : plicRegister s.cfg s.contexts.length off = x) (hne : x ≠ .reserved) :
    s.plicSelects off len = some x ∧ forwards s.cfg .plic off len = true := by
  obtain ⟨hal, hin⟩ := plicRegister_bounds hs.layout hx hne
  exact ⟨(plicSelects_eq_some_of_aligned s hlen hal x).2 hx,
    (forwards_eq_true _ _ _ _).2 ⟨s.cfg.plicSize, rfl, by omega, by omega⟩⟩

/-- Every row of the PLIC, at a register's offset, is the register's load (R122). -/
theorem exec_eq_plicRegisterLoad {r : LoadReq} {x : PlicRegister} (hs : s.Inv)
    (hi : portAccess i = some (.plic, .load r)) (hlen : r.len = 4)
    (hx : plicRegister s.cfg s.contexts.length r.off = x) (hne : x ≠ .reserved) :
    exec i s = finishLoad r.hart r.kind (s.portAddr .plic r.off) (plicRegisterLoad x s) := by
  obtain ⟨hsel, hfwd⟩ := hs.plicSelects_and_forwards hlen hx hne
  rw [exec_eq_port hi, atPort, portLoad_of_forwards _ _ _ _ hfwd, ← plicLoad_eq_register hsel]
  rfl

/-- As `exec_eq_plicRegisterLoad`, for a store. -/
theorem exec_eq_plicRegisterStore {r : StoreReq} {x : PlicRegister} (hs : s.Inv)
    (hi : portAccess i = some (.plic, .store r)) (hlen : r.data.length = 4)
    (hx : plicRegister s.cfg s.contexts.length r.off = x) (hne : x ≠ .reserved) :
    exec i s = finishStore r.hart (s.portAddr .plic r.off) (plicRegisterStore x (storeValue r.data) s) := by
  obtain ⟨hsel, hfwd⟩ := hs.plicSelects_and_forwards hlen hx hne
  rw [exec_eq_port hi, atPort, portStore_of_forwards _ _ _ _ hfwd, ← plicStore_eq_register hsel]
  rfl

/-! ## Loads -/

/-- The index of an enable word lies in the array. -/
theorem enable_index_lt {A W a w : Nat} (ha : a < A) (hw : w < W) : a * W + w < A * W := by
  have := step_block_le (stride := W) ha
  omega

/-- A load that answers a word leaves it in the output alone. -/
theorem finishLoad_loadWord (h : Nat) (k : LoadKind) (a : Word64) (v : Word32) (s : State) :
    finishLoad h k a (loadWord v s) = .next { s with out := .loaded (leBytes 4 v.toNat) } := rfl

/-- Settles O21: the register is in its array, and its load answers its four bytes. -/
theorem plicRegisterLoads : Obligations.PlicRegisterLoads := by
  intro s r hs hlen
  obtain ⟨-, -, -, -, -, hpend, -, henable, hth, -⟩ := hs.shape
  refine ⟨fun i h1 h2 hoff => ?_, fun w hw hoff => ?_, fun a w ha hw hoff => ?_, fun a ha hoff => ?_⟩
  · rw [exec_eq_plicRegisterLoad hs rfl hlen ((plicRegister_eq_priority i).2 ⟨h1, h2, hoff⟩) nofun,
      plicRegisterLoad, ldPriority, finishLoad_loadWord, BitVec.toNat_setWidth_of_le (by decide)]
  · have hin : w < s.plic.pending.length := hpend ▸ hw
    have hword : s.plic.pending.getD w 0#32 = s.plic.pending[w] := List.getD_eq_getElem _ _ hin
    refine ⟨s.plic.pending[w], List.getElem?_eq_getElem hin, fun j hj hbit => ?_, ?_⟩
    · have hdiv : (32 * w + j) / 32 = w := by omega
      have hmod : (32 * w + j) % 32 = j := by omega
      exact hs.plicBits (32 * w + j) (by omega) (.inl (by rwa [bitAt, hdiv, hmod, hword]))
    · rw [exec_eq_plicRegisterLoad hs rfl hlen ((plicRegister_eq_pending hs.layout w).2 ⟨hw, hoff⟩) nofun,
        plicRegisterLoad, ldPending, finishLoad_loadWord, hword]
  · have hin : a * s.cfg.words + w < s.plic.enable.length := henable ▸ enable_index_lt ha hw
    refine ⟨_, List.getElem?_eq_getElem hin, ?_⟩
    rw [exec_eq_plicRegisterLoad hs rfl hlen ((plicRegister_eq_enable hs.layout a w).2 ⟨ha, hw, hoff⟩) nofun,
      plicRegisterLoad, ldEnable, finishLoad_loadWord, State.enableWord, List.getD_eq_getElem _ _ hin]
  · have hin : a < s.plic.threshold.length := hth ▸ ha
    refine ⟨_, List.getElem?_eq_getElem hin, hs.thresholds _ (List.mem_map_of_mem (List.getElem_mem hin)), ?_⟩
    rw [exec_eq_plicRegisterLoad hs rfl hlen ((plicRegister_eq_threshold hs.layout a).2 ⟨ha, hoff⟩) nofun,
      plicRegisterLoad, ldThreshold, finishLoad_loadWord, Plic.thresh, List.getD_eq_getElem _ _ hin]

/-! ## Stores -/

/-- The value of a 4-byte store is that of its bytes. -/
theorem storeValue_toNat {b : Bytes} (hb : b.length = 4) : (storeValue b).toNat = leValue b := by
  have hlt := leValue_lt b
  rw [hb] at hlt
  rw [storeValue, BitVec.toNat_ofNat, Nat.mod_eq_of_lt hlt]

/-- The end of a store that Update follows. -/
theorem finishStore_updated (h : Nat) (a : Word64) (s : State) :
    finishStore h a (updated s) = .next ((update s).setOut .stored) := rfl

theorem getD_set_self {α : Type} {l : List α} {n : Nat} (h : n < l.length) (x d : α) : (l.set n x).getD n d = x := by
  simp [List.getD_eq_getElem?_getD, h]

theorem getD_set_of_ne {α : Type} {n m : Nat} (h : n ≠ m) (l : List α) (x d : α) :
    (l.set n x).getD m d = l.getD m d := by
  simp [List.getD_eq_getElem?_getD, h]

/-- Words of two contexts stand at one index only when they are the same word. -/
theorem enable_index_inj {W a b w x : Nat} (hw : w < W) (hx : x < W) (h : a * W + w = b * W + x) : b = a ∧ x = w := by
  have hdiv : a = b := by
    rw [Nat.mul_comm, Nat.mul_comm b] at h
    simpa [Nat.mul_add_div (Nat.zero_lt_of_lt hw), Nat.div_eq_of_lt hw, Nat.div_eq_of_lt hx] using congrArg (· / W) h
  subst hdiv
  omega

/-- Settles O22: the store writes one position of one array, and Update follows. -/
theorem plicRegisterStores : Obligations.PlicRegisterStores := by
  intro s r hs hlen
  have hvalue := storeValue_toNat hlen
  obtain ⟨-, -, -, hprio, -, -, -, henable, hth, -⟩ := hs.shape
  refine ⟨fun i h1 h2 hoff => ?_, fun a w ha hw hoff => ?_, fun a ha hoff => ?_⟩
  · have hexec := exec_eq_plicRegisterStore (i := .plicStPriority r) hs rfl hlen
      ((plicRegister_eq_priority i).2 ⟨h1, h2, hoff⟩) nofun
    rw [plicRegisterStore, stPriority, finishStore_updated] at hexec
    refine ⟨_, hexec, rfl, rfl, by simp, ?_, fun j hj hne => ?_, plicEffect_update hs _ .stored⟩
    · simp only [Plic.prio, State.setOut_plic, update_plic, State.setPlic_plic]
      rw [getD_set_self (by omega), BitVec.toNat_setWidth, hvalue]
    · exact getD_set_of_ne (by omega) _ _ _
  · have hexec := exec_eq_plicRegisterStore (i := .plicStEnable r) hs rfl hlen
      ((plicRegister_eq_enable hs.layout a w).2 ⟨ha, hw, hoff⟩) nofun
    rw [plicRegisterStore, stEnable, finishStore_updated] at hexec
    refine ⟨_, hexec, rfl, rfl, by simp, ?_, fun b x hx hne => ?_, plicEffect_update hs _ .stored⟩
    · rw [← hvalue]
      exact congrArg BitVec.toNat (getD_set_self (henable ▸ enable_index_lt ha hw) _ _)
    · exact getD_set_of_ne (fun h => hne (enable_index_inj hw hx h)) _ _ _
  · have hexec := exec_eq_plicRegisterStore (i := .plicStThreshold r) hs rfl hlen
      ((plicRegister_eq_threshold hs.layout a).2 ⟨ha, hoff⟩) nofun
    rw [plicRegisterStore, stThreshold, finishStore_updated] at hexec
    refine ⟨_, hexec, rfl, rfl, by simp, ?_, fun b hne => ?_, plicEffect_update hs _ .stored⟩
    · simp only [Plic.thresh, State.setOut_plic, update_plic, State.setPlic_plic]
      rw [getD_set_self (by omega), BitVec.toNat_ofNat, hvalue]
      exact Nat.mod_eq_of_lt ((Nat.min_le_right _ _).trans_lt hs.numPriorities_lt)
    · exact getD_set_of_ne (Ne.symm hne) _ _ _

/-! ## Claim and complete -/

/-- R39: id 0 has no pending bit. -/
theorem State.Inv.pending_zero (hs : s.Inv) : bitAt s.plic.pending 0 = false := by
  by_contra h
  have := hs.plicBits 0 (by simp [Config.words]) (.inl (by simpa using h))
  omega

/-- R232: a claim writes the bitfields alone. -/
theorem takeClaim_eq (n : Nat) (s : State) :
    takeClaim n s = s.setPlic { s.plic with
      pending := if n = 0 then s.plic.pending else clearBit s.plic.pending n
      claimed := if n = 0 then s.plic.claimed else setBit s.plic.claimed n } := by
  unfold takeClaim
  split
  · rfl
  · rfl

/-- Settles O23: the claim of the best id, and Update after it. -/
theorem plicClaim : Obligations.PlicClaim := by
  intro s r a hs hlen ha hoff
  have hexec := exec_eq_plicRegisterLoad (i := .plicLdClaim r) hs rfl hlen
    ((plicRegister_eq_claim hs.layout a).2 ⟨ha, hoff⟩) nofun
  rw [plicRegisterLoad, ldClaim, takeClaim_eq] at hexec
  obtain ⟨-, hclaimed⟩ := hs.bitfield_lengths
  have hword := word_lt_words (best_le s a)
  refine ⟨_, best s a, hexec, bestIsGreatestEligible s a, rfl, rfl, fun j => ?_, fun j => ?_,
    plicEffect_update hs _ _⟩
  · simp only [State.setOut_plic, update_plic, State.setPlic_plic]
    split
    next h0 =>
      by_cases hj : j = best s a
      · rw [hj, h0, hs.pending_zero, Bool.false_and]
      · simp [hj]
    next => simp [bitAt_clearBit, Bool.and_comm, eq_comm]
  · simp only [State.setOut_plic, update_plic, State.setPlic_plic]
    split
    next h0 => simp [h0]
    next h0 => simp [bitAt_setBit _ _ _ (hclaimed.symm ▸ hword), h0, Bool.or_comm, eq_comm]

/-- R233: a complete writes the claimed bits alone. -/
theorem stComplete_eq (v : Word32) (s : State) :
    stComplete v s = updated (s.setPlic { s.plic with
      claimed := if 1 ≤ v.toNat ∧ v.toNat ≤ s.cfg.numSources then clearBit s.plic.claimed v.toNat
        else s.plic.claimed }) := by
  unfold stComplete
  split
  · rfl
  · rfl

/-- Settles O24: the complete of the stored value, and Update after it. -/
theorem plicComplete : Obligations.PlicComplete := by
  intro s r a hs hlen ha hoff
  have hexec := exec_eq_plicRegisterStore (i := .plicStComplete r) hs rfl hlen
    ((plicRegister_eq_claim hs.layout a).2 ⟨ha, hoff⟩) nofun
  rw [plicRegisterStore, stComplete_eq, finishStore_updated, storeValue_toNat hlen] at hexec
  refine ⟨_, hexec, rfl, rfl, fun j => ?_, plicEffect_update hs _ _⟩
  simp only [State.setOut_plic, update_plic, State.setPlic_plic]
  by_cases hj : j = leValue r.data
  · subst hj
    split
    next hid => simp [bitAt_clearBit, hid]
    next hid => simp [hid]
  · split
    next => simp [bitAt_clearBit, hj, Ne.symm hj]
    next => simp [hj]

/-! ## The lines of the sources -/

/-- R235, D28: when a line sets its pending bit. -/
theorem latches_iff (s : State) (irq : Nat) (level : Bool) :
    latches s irq level = true ↔ s.plic.lev irq = false ∧ level = true
      ∧ (bitAt s.plic.claimed irq = false ∨ s.cfg.edgeWhileClaimed = .latch) := by
  simp [latches, and_assoc]

/-- Settles O25: the level and the pending bit of an id, and Update after it; no other value is looked at. -/
theorem plicSetPending : Obligations.PlicSetPending := by
  intro s irq level hs
  obtain ⟨-, -, -, -, hlevel, hpending, -⟩ := hs.shape
  refine ⟨fun h1 h2 => ?_, fun hout => ?_⟩
  · refine ⟨(update (setLevel irq level s)).setOut .none, ?_, rfl, rfl, fun j hj => ?_, fun j => ?_,
      plicEffect_update hs _ _⟩
    · rw [exec, execPlicSetPending, if_pos ⟨h1, h2⟩]
    · simp only [Plic.lev, setLevel, State.setOut_plic, update_plic, State.setPlic_plic]
      split
      next he => rw [he, getD_set_self (by omega)]
      next he => exact getD_set_of_ne (by omega) _ _ _
    · simp only [setLevel, State.setOut_plic, update_plic, State.setPlic_plic]
      simp only [← latches_iff]
      split
      next hl =>
        rw [bitAt_setBit _ _ _ (hpending.symm ▸ word_lt_words h2)]
        simp [hl, Bool.or_comm, eq_comm]
      next hl => simp [hl]
  · rw [exec, execPlicSetPending, if_neg hout]
    rfl

/-! ## Pending and claimed bits over instructions -/

/-- A pending bit is cleared only by the claim of its id. -/
theorem Effect.pending_cleared (h : Effect i s t) (hs : s.Inv) {n : Nat} (hset : bitAt s.plic.pending n = true)
    (hclear : bitAt t.plic.pending n = false) :
    t.out = .loaded (leBytes 4 n) ∧ bitAt t.plic.claimed n = true := by
  obtain ⟨hpending, hclaimed⟩ := hs.bitfield_lengths
  cases h
  case constructed hu _ => exact absurd hu hs.phase_ne
  case claim a h0 x hx =>
    simp only [State.setOut_plic, update_plic, State.setPlic_plic, bitAt_clearBit, hset, Bool.and_true,
      Bool.not_eq_false', decide_eq_true_eq] at hclear
    subst hclear
    refine ⟨rfl, ?_⟩
    simp [bitAt_setBit _ _ _ (hclaimed.symm ▸ word_lt_words (best_le s a))]
  case level irq l hirq hi =>
    simp only [State.setOut_plic, update_plic, State.setPlic_plic] at hclear
    split at hclear
    · rw [bitAt_setBit _ _ _ (hpending.symm ▸ word_lt_words hirq.2), hset, Bool.or_true] at hclear
      cases hclear
    · cases hclear.symm.trans hset
  all_goals
    simp only [State.setOut_plic, update_plic, recomputeMtip_plic] at hclear
    simp [hset] at hclear

/-- Settles O27: every instruction's effect. -/
theorem pendingClearedOnlyByClaim : Obligations.PendingClearedOnlyByClaim :=
  fun _ _ _ _ hs e hset hclear => (exec_effect e).pending_cleared hs hset hclear

/-- A claimed bit is cleared only by the complete of its id. -/
theorem Effect.claimed_kept (h : Effect i s t) (hs : s.Inv) {n : Nat} (hset : bitAt s.plic.claimed n = true)
    (hno : ¬StoresWord i n) : bitAt t.plic.claimed n = true := by
  obtain ⟨-, hclaimed⟩ := hs.bitfield_lengths
  cases h
  case constructed hu _ => exact absurd hu hs.phase_ne
  case claim a h0 x hx =>
    simp [bitAt_setBit _ _ _ (hclaimed.symm ▸ word_lt_words (best_le s a)), hset]
  case complete b hb hl x hx =>
    have hne : (storeValue b).toNat ≠ n := fun he => hno ⟨b, hb, hl, storeValue_toNat hl ▸ he⟩
    simp [bitAt_clearBit, hset, hne]
  all_goals simpa using hset

theorem execAll_claimed_kept {is : List Instr} (hs : s.Inv) {n : Nat} (hset : bitAt s.plic.claimed n = true)
    (hno : ∀ x ∈ is, ¬StoresWord x n) (e : execAll is s = .next t) : bitAt t.plic.claimed n = true := by
  induction is generalizing s with
  | nil =>
    cases e
    exact hset
  | cons x is ih =>
    simp only [execAll] at e
    split at e
    next u hu =>
      exact ih (exec_inv hs hu) ((exec_effect hu).claimed_kept hs hset (hno x (by simp)))
        (fun y hy => hno y (List.mem_cons_of_mem _ hy)) e
    next => cases e
    next => cases e

/-- R231: the arbitration leaves no choice of the id. -/
theorem IsBest.unique {a m n : Nat} (hm : IsBest s a m) (hn : IsBest s a n) : m = n := by
  rcases hm with ⟨rfl, hnone⟩ | ⟨hem, hgm⟩ <;> rcases hn with ⟨rfl, hnone'⟩ | ⟨hen, hgn⟩
  · rfl
  · exact absurd hen (hnone n)
  · exact absurd hem (hnone' m)
  · have h1 := hgm n hen
    have h2 := hgn m hem
    rcases h1 with h1 | ⟨he, h1⟩ <;> rcases h2 with h2 | ⟨he', h2⟩
    · omega
    · rw [he'] at h1
      omega
    · rw [he] at h2
      omega
    · omega

/-- Settles O28: the claim sets the claimed bit, the run keeps it, and a claimed id is not eligible. -/
theorem oneClaimPerAssertion : Obligations.OneClaimPerAssertion := by
  intro s t u r a b i is hs ha hlen hoff hbest hi et hno eu hbest'
  obtain ⟨t', n, ht', hn, -, -, -, hclaimed, -⟩ := plicClaim s r a hs hlen ha hoff
  cases et.symm.trans ht'
  cases hbest.unique hn
  have hset : bitAt t.plic.claimed i = true := by simp [hclaimed, hi]
  have hkept := execAll_claimed_kept (exec_inv hs et) hset hno eu
  rcases hbest' with ⟨h0, -⟩ | ⟨⟨-, -, -, -, hfree, -⟩, -⟩
  · exact hi h0
  · cases hkept.symm.trans hfree

/-! ## The one writer of each `mip` bit (10_state.md section 2) -/

/-- R181: the recomputation of MTIP leaves the other bits. -/
theorem recomputeMtip_others {u : State} (hu : u.mip = s.mip) (o : Output) (n : Nat) :
    (((recomputeMtip u).setOut o).mipOf n).msip = (s.mipOf n).msip
      ∧ (((recomputeMtip u).setOut o).mipOf n).meip = (s.mipOf n).meip
      ∧ (((recomputeMtip u).setOut o).mipOf n).seip = (s.mipOf n).seip := by
  have hmip : u.mipOf n = s.mipOf n := by simp only [State.mipOf, hu]
  simp [hmip]

/-- R184: MSIP changes only where a store at the CLINT covers its byte. -/
theorem Effect.msip_changed (h : Effect i s t) (hs : s.Inv) {n : Nat}
    (hne : (t.mipOf n).msip ≠ (s.mipOf n).msip) :
    ∃ r, Reaches s i .clint (.store r) ∧ r.off ≤ 4 * n ∧ 4 * n < r.off + r.data.length
      ∧ (t.mipOf n).msip = (r.data.getD (4 * n - r.off) 0#8).getLsbD 0 := by
  cases h
  case constructed hu _ => exact absurd hu hs.phase_ne
  case msip r hb ha =>
    have hbit := (recomputeMtip_msip _ n).trans
      (storeMsip_msip (sampleIfRealTime s) r.off r.data n (by simpa using hs.mip_length))
    by_cases hcover : n < (sampleIfRealTime s).cfg.nHarts ∧ r.off ≤ 4 * n ∧ 4 * n < r.off + r.data.length
    · have ⟨_, hlo, hhi⟩ := hcover
      exact ⟨r, ha, hlo, hhi, hbit.trans (if_pos hcover)⟩
    · exact absurd ((hbit.trans (if_neg hcover)).trans (by simp)) hne
  case clint | mtimecmp | mtime | tick => exact (hne (recomputeMtip_others (by simp) _ n).1).elim
  case priority | enable | threshold | claim | idleClaim | complete | idleComplete | level =>
    exact absurd (update_msip _ n) hne
  case same | marker | mask | block | ram | external | added => exact absurd rfl hne

/-- R181: MTIP changes only in the CLINT's frame or by a tick, which leave it right. -/
theorem Effect.mtip_changed (h : Effect i s t) (hs : s.Inv) {n : Nat}
    (hne : (t.mipOf n).mtip ≠ (s.mipOf n).mtip) :
    ((∃ inc, i = .clintTick inc) ∨ ∃ a, Reaches s i .clint a) ∧ t.MtipRight := by
  have hl := hs.mip_length
  cases h
  case constructed hu _ => exact absurd hu hs.phase_ne
  case clint ha | msip ha | mtimecmp ha | mtime ha =>
    exact ⟨.inr ⟨_, ha⟩, recomputeMtip_mtipRight (by simpa using hl) _⟩
  case tick inc hi => exact ⟨.inl ⟨inc, hi⟩, recomputeMtip_mtipRight (by simpa using hl) _⟩
  case priority | enable | threshold | claim | idleClaim | complete | idleComplete | level =>
    exact absurd (update_mtip _ n) hne
  case same | marker | mask | block | ram | external | added => exact absurd rfl hne

/-- R234: an effect that is not one of the PLIC leaves MEIP and SEIP. -/
theorem Effect.lines (h : Effect i s t) (hs : s.Inv) :
    (∀ n, (t.mipOf n).meip = (s.mipOf n).meip ∧ (t.mipOf n).seip = (s.mipOf n).seip)
      ∨ ((∃ irq l, i = .plicSetPending irq l) ∨ ∃ a, Reaches s i .plic a) ∧ PlicEffect s t := by
  cases h
  case constructed hu _ => exact absurd hu hs.phase_ne
  case clint | mtimecmp | mtime | tick => exact .inl fun n => (recomputeMtip_others (by simp) _ n).2
  case msip => exact .inl fun n => by simp
  case priority x hx | enable x hx | threshold x hx | claim x hx | complete x hx =>
    exact .inr ⟨.inr ⟨x, hx⟩, plicEffect_update hs _ _⟩
  case idleClaim x hx | idleComplete x hx => exact .inr ⟨.inr ⟨x, hx⟩, plicEffect_update hs s.plic _⟩
  case level irq l hirq hi => exact .inr ⟨.inl ⟨irq, l, hi⟩, plicEffect_update hs _ _⟩
  case same | marker | mask | block | ram | external | added => exact .inl fun _ => ⟨rfl, rfl⟩

/-- Settles O17: each bit's changes are those of its own effects; MEIP and SEIP change only at a hart with a context. -/
theorem mipBitsHaveOneWriter : Obligations.MipBitsHaveOneWriter := by
  intro s t i h hs e
  have heffect := exec_effect e
  refine ⟨heffect.msip_changed hs, heffect.mtip_changed hs, fun hne => ?_, fun hne => ?_⟩
  · rcases heffect.lines hs with hsame | ⟨hwho, -, -, -, hmeip, -, hlines⟩
    · exact absurd (hsame h).1 hne
    · refine ⟨hwho, ?_, hlines⟩
      by_contra hnone
      exact hne (hmeip h fun c hc hch => hnone ⟨c, hc, hch⟩)
  · rcases heffect.lines hs with hsame | ⟨hwho, -, -, -, -, hseip, hlines⟩
    · exact absurd (hsame h).2 hne
    · refine ⟨hwho, ?_, hlines⟩
      by_contra hnone
      exact hne (hseip h fun c hc hch => hnone ⟨c, hc, hch⟩)

end Sys2Proof.Machine
end

section
/-! Proofs about the world-guard (43_worldguard.md): who is refused at its registers, what a trusted hart's store
writes, and what the gates decide. -/

namespace Sys2Proof

/-- A block with another value in a field. -/
def PmpField.put : (f : PmpField) → Machine.PmpBlock → BitVec (8 * f.size) → Machine.PmpBlock
  | .perm, x, v => { x with perm := v }
  | .basePage, x, v => { x with basePage := v }
  | .pageCount, x, v => { x with pageCount := v }
  | .lock, x, v => { x with lock := v }

end Sys2Proof

namespace Sys2Proof.Machine

variable {s t : State} {i : Instr} {g : GuardDevice}

/-! ## Decode (R125 to R127) -/

/-- R127: a field of a block is selected by exactly the accesses inside it. -/
theorem pmpField_eq_some_iff {off len k : Nat} (f : PmpField) (hl : 1 ≤ len) :
    pmpField off len = some (k, f) ↔
      0x18 * k + f.start ≤ off ∧ off + len ≤ 0x18 * k + (f.start + f.size) := by
  constructor
  · intro h
    simp only [pmpField, inside_eq_true] at h
    split_ifs at h with hperm hbase hcount hlock
    all_goals
      cases h
      simp only [PmpField.start, PmpField.size]
      omega
  · rintro ⟨hlo, hhi⟩
    have hsel := pmpField_of_inside (k := k) (j := off - (0x18 * k + f.start)) f hl (by omega)
    rwa [Nat.add_sub_cancel' hlo] at hsel

theorem markerRegister_eq_wid {off len : Nat} : markerRegister off len = some .wid ↔ off + len ≤ 4 := by
  simp only [markerRegister, inside_eq_true]
  split_ifs <;> simp <;> omega

theorem markerRegister_eq_lock {off len : Nat} (hl : 1 ≤ len) :
    markerRegister off len = some .lock ↔ 4 ≤ off ∧ off + len ≤ 8 := by
  simp only [markerRegister, inside_eq_true]
  split_ifs <;> simp <;> omega

/-- Settles O7: the registers one by one, and the four fields by their start and size. -/
theorem guardDecode : Obligations.GuardDecode := fun off len hl =>
  ⟨markerRegister_eq_wid, markerRegister_eq_lock hl, filterRegister_eq_true off len,
    fun _ => pmpField_eq_some_iff .perm hl, fun _ => pmpField_eq_some_iff .basePage hl,
    fun _ => pmpField_eq_some_iff .pageCount hl, fun _ => pmpField_eq_some_iff .lock hl⟩

/-! ## Refusals at the port (R270, R271) -/

theorem trusted_iff {h : Nat} : s.trusted h = true ↔ InTrustedWorld s h := by
  refine ⟨fun ht => ?_, InTrustedWorld.trusted⟩
  simp only [State.trusted, State.worldOf] at ht
  cases hm : s.markers[h]? with
  | none => simp [hm] at ht
  | some x => exact ⟨x, hm, by simpa [hm] using ht⟩

theorem deviceLoad_guardDevice (r : LoadReq) : deviceLoad ⟨0, 0, guardDevice g, []⟩ r s = guardLoad g r s := by
  cases g <;> rfl

theorem deviceStore_guardDevice (r : StoreReq) : deviceStore ⟨0, 0, guardDevice g, []⟩ r s = guardStore g r s := by
  cases g <;> rfl

/-- A guard device whose port refuses leaves the fault alone. -/
theorem exec_refused_at_guard {a : Access} (hi : portAccess i = some (guardDevice g, a))
    (hload : ∀ r, a = .load r → guardLoad g r s = refuse s)
    (hstore : ∀ r, a = .store r → guardStore g r s = refuse s) :
    exec i s = .next { s with out := refusedOut s (guardDevice g) a } := by
  cases a with
  | load r => exact exec_refusedLoad hi ((deviceLoad_guardDevice r).trans (hload r rfl))
  | store r => exact exec_refusedStore hi ((deviceStore_guardDevice r).trans (hstore r rfl))

/-- Settles O29: R270 comes before the register. -/
theorem untrustedIsRefused : Obligations.UntrustedIsRefused := by
  intro s i g a hi hno
  refine exec_refused_at_guard hi (fun r hr => ?_) (fun r hr => ?_)
  · subst hr
    exact if_neg fun ht => hno (trusted_iff.1 ht)
  · subst hr
    exact if_neg fun ht => hno (trusted_iff.1 ht)

theorem registerLoad_of_crosses {r : LoadReq} (hc : crosses g r.off r.len = true) : registerLoad g r s = refuse s := by
  cases g <;> simp_all [crosses, registerLoad]

theorem registerStore_of_crosses {r : StoreReq} (hc : crosses g r.off r.data.length = true) :
    registerStore g r s = refuse s := by
  cases g <;> simp_all [crosses, registerStore]

/-- Settles O30: R271's refusal is that of R270. -/
theorem crossingIsRefused : Obligations.CrossingIsRefused := by
  intro s g a hc
  refine exec_refused_at_guard rfl (fun r hr => ?_) (fun r hr => ?_)
  · subst hr
    rw [guardLoad, registerLoad_of_crosses hc, ite_self]
  · subst hr
    rw [guardStore, registerStore_of_crosses hc, ite_self]

/-! ## Stores of a trusted hart -/

/-- Settles O32: the offset selects `wid`, and the lock and the world decide. -/
theorem markerStoreWid : Obligations.MarkerStoreWid := by
  intro s m r new hs hm ht hl hin hnew
  have hreg : registerStore (.marker m) r s = stMarkerWid m r s := by simp [registerStore, markerRegister_wid hin]
  rw [exec_eq_registerStore (g := .marker m) rfl ht (forwards_marker hm hl (by omega)), hreg, stMarkerWid,
    hnew.eq_writeWindow (by decide) hin]
  by_cases hlock : (s.marker m).lock = 0#32
  · by_cases hwid : new.toNat ≤ s.cfg.widTrusted
    · rw [if_neg (not_not.2 hlock), if_neg (Nat.not_lt.2 hwid), if_pos ⟨hlock, hwid⟩, ← hlock]
      rfl
    · rw [if_neg (not_not.2 hlock), if_pos (Nat.lt_of_not_le hwid), if_neg (fun h => hwid h.2)]
      rfl
  · rw [if_pos hlock, if_neg (fun h => hlock h.1)]
    rfl

/-- Settles O33: the offset selects `lock`, and the lock decides. -/
theorem markerStoreLock : Obligations.MarkerStoreLock := by
  intro s m r new hs hm ht hl hlo hhi hnew
  have hreg : registerStore (.marker m) r s = stMarkerLock m r s := by
    simp [registerStore, markerRegister_lock hl hlo hhi]
  rw [exec_eq_registerStore (g := .marker m) rfl ht (forwards_marker hm hl hhi), hreg, stMarkerLock,
    hnew.eq_writeWindow (by decide) (by omega)]
  by_cases hlock : (s.marker m).lock = 0#32
  · rw [if_neg (not_not.2 hlock), if_pos hlock]
    rfl
  · rw [if_pos hlock, if_neg hlock]
    rfl

/-- Once the field is selected, the port's operation is the store to its window, whichever of the four it is. -/
theorem registerStore_pmp {p k : Nat} {f : PmpField} {r : StoreReq}
    (h : pmpField r.off r.data.length = some (k, f)) :
    registerStore (.pmp p) r s = stPmpBlock p k
      (f.put (s.block p k) (writeWindow (f.value (s.block p k)) (r.off % 0x18 - f.start) r.data)) s := by
  cases f <;> simp only [registerStore, h] <;> rfl

/-- A trusted hart's store inside a field of a PMP block replaces its bytes when the block is unlocked. -/
theorem exec_pmpField_store {p k j : Nat} {bs : List PmpBlock} {x : PmpBlock} {r : StoreReq} (f : PmpField)
    (hs : s.Shape) (hp : s.pmps[p]? = some bs) (hx : bs[k]? = some x) (ht : InTrustedWorld s r.hart)
    (hl : 1 ≤ r.data.length) (hi : portAccess i = some (.pmp p, .store r)) {new : BitVec (8 * f.size)}
    (hoff : r.off = 0x18 * k + f.start + j) (hj : j + r.data.length ≤ f.size)
    (hnew : IsPatched (f.value x) j r.data new) :
    exec i s = .next (if x.lock = 0#32 then
        { s with pmps := s.pmps.set p (bs.set k (f.put x new)), out := .stored }
      else { s with out := refusedOut s (.pmp p) (.store r) }) := by
  have hfit := f.start_add_size_le
  have hk : k < bs.length := (List.getElem?_eq_some_iff.1 hx).1
  have hblock : s.block p k = x := by simp [State.block, hp, hx]
  have hbs : s.pmps.getD p [] = bs := by simp [hp]
  have hreg := registerStore_pmp (s := s) (p := p) (hoff ▸ pmpField_of_inside (k := k) f hl hj)
  rw [hblock, show r.off % 0x18 - f.start = j by omega, hnew.eq_writeWindow (by omega) (by omega)] at hreg
  rw [exec_eq_registerStore (g := .pmp p) hi ht (forwards_pmp hs hp hl (by omega)), hreg, stPmpBlock, hblock,
    State.setBlock, hbs]
  by_cases hlock : x.lock = 0#32
  · rw [if_neg (not_not.2 hlock), if_pos hlock]
    rfl
  · rw [if_pos hlock, if_neg hlock]
    rfl

/-- Settles O37: each of the four rows, at its own field. -/
theorem pmpStores : Obligations.PmpStores := by
  intro s p k j bs x r hinv hp hx ht hl
  have hs := hinv.shape
  exact ⟨fun _ => exec_pmpField_store .perm hs hp hx ht hl rfl,
    fun _ => exec_pmpField_store .basePage hs hp hx ht hl rfl,
    fun _ => exec_pmpField_store .pageCount hs hp hx ht hl rfl, fun _ => exec_pmpField_store .lock hs hp hx ht hl rfl⟩

/-! ## Gates -/

/-- Settles O35: R283 and R284, for the world of the hart's marker. The bare name is the model's own definition. -/
theorem filterGate_spec : Obligations.FilterGate := by
  intro s f h len addr k p x hp hx
  have hzero : x.wid.toNat ≠ 0 ↔ x.wid ≠ 0#32 := by rw [ne_eq, ne_eq, BitVec.toNat_eq, BitVec.toNat_zero]
  refine ⟨_, rfl, ?_⟩
  simp only [filterGate, State.worldOf, hx, Option.map_some, inRange, hp, filterValid, Bool.and_eq_true,
    Bool.or_eq_true, decide_eq_true_eq, hzero, and_assoc]

/-- R300: the bit of `perm` that grants an access. -/
theorem grants_eq_true (b : PmpBlock) (w : Nat) (k : AccessKind) :
    grants b w k = true ↔ w ≤ 15 ∧ b.perm.getLsbD (2 * w + if k = .store then 0 else 1) = true := by
  cases k <;> simp [grants]

/-- Settles O38: R301, for the world of the hart's marker. The bare name is the model's own definition. -/
theorem pmpGate_spec : Obligations.PmpGate := by
  intro s p h len addr k bs x hp hx
  have hbs : s.pmps.getD p [] = bs := by simp [hp]
  refine ⟨_, rfl, ?_⟩
  simp only [pmpGate, State.worldOf, hx, Option.map_some, pmpValid, hbs, Bool.or_eq_true, List.any_eq_true, covers,
    Bool.and_eq_true, decide_eq_true_eq, grants_eq_true, and_assoc]

/-! ## Who writes the guards -/

/-- Settles O40: of the effects only a guard's store writes markers, masks or blocks, and it is a trusted hart's. -/
theorem onlyTheTrustedWorldWritesGuards : Obligations.OnlyTheTrustedWorldWritesGuards := by
  intro s t i hs e hne
  cases exec_effect e
  case constructed hu _ => exact absurd hu hs.phase_ne
  case marker h b hi hb ht _ _ | mask h b hi hb ht | block h b hi hb ht _ =>
    exact ⟨h, b, hi, hb, trusted_iff.1 ht⟩
  all_goals simp at hne

end Sys2Proof.Machine
end
